-- ==== Sys2Proof/Word.lean ====
section
/-!
DEFINITION. The unsigned words of the SCFE (spec 00_scope.md R11): bytes, 16-bit and 32-bit words.
-/

namespace Sys2Proof

/-- `u8` (R11). -/
abbrev Byte := BitVec 8

/-- `u16` (R11). -/
abbrev Half := BitVec 16

/-- `u32` (R11). -/
abbrev Word := BitVec 32

end Sys2Proof
end

