-- ==== Sys2Proof/Config.lean ====
section
/-!
DEFINITION. The implementation parameters of 00_scope.md R10, the moves of the agents (R9), and the free values: which agent
moves when the agenda is empty, and the open USB identifiers.
-/

namespace Sys2Proof

/-- Treatment of a received frame whose length byte exceeds 8 (40_codec.md R224). -/
inductive DlcPolicy where
  | reject
  | clamp
  deriving DecidableEq, Repr, Inhabited

/-- The parameters a model takes (R10). The values the spec fixes for every SCFE are the constants below; these are the ones it
leaves to the implementation. A run never changes them (assumption log 9). -/
structure Config where
  /-- `CRC_TABLE`, 256 entries (R201, R202). -/
  crcTable : Vector Word 256
  /-- `TX_TICK`, the tick ENCODE writes (R213). -/
  txTick : Word
  /-- `DLC_GT8_POLICY` (R224). -/
  dlcPolicy : DlcPolicy
  /-- `MAX_KEYS`, `none` for unbounded (R304). -/
  maxKeys : Option Nat
  /-- `MAX_LISTENERS_PER_KEY`, `none` for unbounded (R304). -/
  maxListeners : Option Nat
  /-- `LISTENER_ID_BITS` (R51, R136). -/
  listenerIdBits : Nat
  /-- `RX_READ_TIMEOUT_MS`, handed to the USB layer (R265, R412). -/
  rxReadTimeoutMs : Nat
  /-- `ACK_POLL_MS` (R345). -/
  ackPollMs : Nat
  /-- `ACK_TIMEOUT_MS` (R345). -/
  ackTimeoutMs : Nat
  deriving DecidableEq, Repr

/-- `FRAME_LEN` (R10). -/
@[simp] abbrev frameLen : Nat := 25
/-- `CRC_SPAN` (R10). -/
@[simp] abbrev crcSpan : Nat := 21
/-- `PAYLOAD_FIELD` (R10). -/
@[simp] abbrev payloadField : Nat := 8
/-- `MAX_DLC` (R10). -/
@[simp] abbrev maxDlc : Byte := 8#8
/-- `MARKER_DATA` (R10, R122). -/
@[simp] abbrev markerData : Half := 0xFFFF#16
/-- `MARKER_ACK` (R10, R122). -/
@[simp] abbrev markerAck : Half := 0xAAAA#16
/-- `RX_BATCH_FRAMES` (R10). -/
@[simp] abbrev rxBatchFrames : Nat := 20
/-- `RX_BUF_BYTES = RX_BATCH_FRAMES * FRAME_LEN` (R10). -/
@[simp] abbrev rxBufBytes : Nat := 500
/-- `USB_INTERFACE` (R10). -/
@[simp] abbrev usbInterface : Nat := 1

/-- One step of one agent (R9). The first ten are inward events (60_exceptions.md R408) with the value the environment chooses;
the last five are steps an internal engine takes on its own. A move that nothing waits for changes nothing (R408). The answer of
`usb_open` and every completion name the transaction they belong to by its number (DESIGN CHOICE, assumption log 23): the `n`-th
`usb_open`, read or write the SCFE has issued, the `n`-th delivery it has made to that listener. -/
inductive Move where
  /-- The issuer presents a command descriptor (30_encoding.md R130). -/
  | descriptor (desc : List Byte)
  /-- The USB layer answers the `n`-th `usb_open` (41_transport.md R260). -/
  | usbOpened (n : Nat) (ok : Bool)
  /-- The `n`-th bulk IN read completes with these bytes (R266). -/
  | transfer (n : Nat) (bytes : List Byte)
  /-- The `n`-th bulk IN read completes by timeout (R267). -/
  | readTimeout (n : Nat)
  /-- The `n`-th bulk IN read completes with a USB error (R268). -/
  | readError (n : Nat)
  /-- The `n`-th OUT write completes with `bytes_written` (R275). -/
  | writeDone (n : Nat) (written : Fin 26)
  /-- External listener `lid` returns the completion of the `n`-th delivery made to it (42_dispatcher.md R315). -/
  | listenerDone (lid : Half) (n : Nat)
  /-- One strobe of `ms_tick` (60_exceptions.md R410). -/
  | strobe
  /-- The input `dev_present` takes this value (R276). -/
  | devChange (present : Bool)
  /-- The reset input `rst` is asserted (70_reset_and_hazards.md R450). -/
  | assertReset
  /-- Read engine: issue step (R265). -/
  | issueRead
  /-- Read engine: stop step (R270). -/
  | stopLoop
  /-- Read engine: end of the batch (R269). -/
  | endBatch
  /-- Dispatch engine: its next step (R310, R313, R314). -/
  | dispatch
  /-- Command engine: go on after an `await` (R263, R274, R340). -/
  | resume
  deriving DecidableEq, Repr, Inhabited

/-- FREE VALUE: the agent that moves, and what the environment gives it, once the agenda is empty. It has no body: any enabled
agent may step next and no rule fixes a schedule (R9, R405). The step applies it to `State.clock` (assumption log 1). -/
opaque Config.nextMove : Nat → Move

/-- `USB_VID`, OPEN in the spec (R3, R10, D43): no value is assumed (DESIGN CHOICE, assumption log 15). -/
opaque Config.usbVid : Nat

/-- `USB_PID`, OPEN in the spec (R3, R10, D43): no value is assumed (DESIGN CHOICE, assumption log 15). -/
opaque Config.usbPid : Nat

end Sys2Proof
end

