-- ==== Sys2Proof/Syntax.lean ====
section
/-!
DEFINITION. The instructions of the SCFE: one constructor per row of spec/opcode_table.json, that is the 12 command descriptors
of 30_encoding.md R131, R132 and the 2 wire frames of R120, R122. Every operand stands with the width of its field; the
arguments stand in the order of the fields on the port or on the wire.
-/

namespace Sys2Proof

/-- A decoded command descriptor or received wire frame. The opcode and the marker are the constructor. -/
inductive Instr where
  /-- CONNECT, format H (R260). -/
  | connect (tag : Byte)
  /-- DISCONNECT, format H (R261). -/
  | disconnect (tag : Byte)
  /-- START, format H (R262). -/
  | start (tag : Byte)
  /-- STOP, format H (R263). -/
  | stop (tag : Byte)
  /-- STATUS, format H (R264). -/
  | status (tag : Byte)
  /-- ENCODE, format F (R210); `payload` is the 8-byte PAYLOAD field. -/
  | encode (tag node kind : Byte) (ident : Word) (len pcount : Byte) (payload : List Byte)
  /-- DECODE, format D (R220); BLEN is the length of `bytes`. -/
  | decode (tag : Byte) (bytes : List Byte)
  /-- CHECKSUM, format C (R207); `data` is the 21-byte DATA field. -/
  | checksum (tag : Byte) (data : List Byte)
  /-- SEND, format F (R274). -/
  | send (tag node kind : Byte) (ident : Word) (len pcount : Byte) (payload : List Byte)
  /-- SEND_ACKED, format F (R340). -/
  | sendAcked (tag node kind : Byte) (ident : Word) (len pcount : Byte) (payload : List Byte)
  /-- SUBSCRIBE, format S (R300). -/
  | subscribe (tag : Byte) (ident : Word) (marker lid : Half) (mode : Byte)
  /-- UNSUBSCRIBE, format S (R305); `mode` is carried and ignored. -/
  | unsubscribe (tag : Byte) (ident : Word) (marker lid : Half) (mode : Byte)
  /-- DATA_FRAME, marker 0xFFFF (R120, R122); `payload` is the 8-byte payload field. -/
  | dataFrame (tick : Word) (node kind : Byte) (ident : Word) (len : Byte) (payload : List Byte) (checksum : Word)
  /-- ACK_FRAME, marker 0xAAAA (R120, R122). -/
  | ackFrame (tick : Word) (node kind : Byte) (ident : Word) (len : Byte) (payload : List Byte) (checksum : Word)
  deriving DecidableEq, Repr

end Sys2Proof
end

