-- ==== Sys2Proof/WellFormed.lean ====
section
/-!
DEFINITION. Which terms of `Instr` an encoding can spell: the byte-string operands have the lengths of 30_encoding.md R120 and
R132. Every other operand is well-formed by its width.
-/

namespace Sys2Proof

/-- The checks of R132 and R120: PAYLOAD and the payload field hold 8 bytes, DATA holds 21 bytes, and BLEN is one byte. -/
def Instr.wellFormed : Instr → Bool
  | .connect _ => true
  | .disconnect _ => true
  | .start _ => true
  | .stop _ => true
  | .status _ => true
  | .encode _ _ _ _ _ _ payload => payload.length == payloadField
  | .decode _ bytes => decide (bytes.length < 256)
  | .checksum _ data => data.length == crcSpan
  | .send _ _ _ _ _ _ payload => payload.length == payloadField
  | .sendAcked _ _ _ _ _ _ payload => payload.length == payloadField
  | .subscribe _ _ _ _ _ => true
  | .unsubscribe _ _ _ _ _ => true
  | .dataFrame _ _ _ _ _ payload _ => payload.length == payloadField
  | .ackFrame _ _ _ _ _ payload _ => payload.length == payloadField

end Sys2Proof
end

