-- ==== Sys2Proof/Decode.lean ====
section
/-!
DEFINITION. The decoders (30_encoding.md R120-R123, R130-R138), total on every byte string and rejecting by name; the encoder of
both encodings; and the byte-order helpers of 00_scope.md R13 they share.
-/

namespace Sys2Proof

/-! ### Byte order (R13, R80, R82) -/

/-- `B[i]`; the offsets the rules use are inside `B`, elsewhere it is 0. -/
def byteAt (B : List Byte) (i : Nat) : Byte := B.getD i 0

/-- The u16 whose least significant byte is `b0` (R13). -/
def word16 (b0 b1 : Byte) : Half := b1 ++ b0

/-- The u32 whose least significant byte is `b0` (R13). -/
def word32 (b0 b1 b2 b3 : Byte) : Word := b3 ++ b2 ++ b1 ++ b0

/-- `le16(B, o)` (R13). -/
def le16 (B : List Byte) (o : Nat) : Half := word16 (byteAt B o) (byteAt B (o + 1))

/-- `le32(B, o)` (R13). -/
def le32 (B : List Byte) (o : Nat) : Word :=
  word32 (byteAt B o) (byteAt B (o + 1)) (byteAt B (o + 2)) (byteAt B (o + 3))

/-- `bytes_le16(v) = [v[7:0], v[15:8]]` (R13). -/
def bytesLe16 (v : Half) : List Byte := [v.extractLsb' 0 8, v.extractLsb' 8 8]

/-- `bytes_le32(v) = [v[7:0], v[15:8], v[23:16], v[31:24]]` (R13). -/
def bytesLe32 (v : Word) : List Byte :=
  [v.extractLsb' 0 8, v.extractLsb' 8 8, v.extractLsb' 16 8, v.extractLsb' 24 8]

/-- `B[a ..< b]` (R13). -/
def slice (B : List Byte) (a b : Nat) : List Byte := (B.drop a).take (b - a)

/-! ### Opcodes (R131) -/

@[simp] abbrev opcConnect : Byte := 0x01#8
@[simp] abbrev opcDisconnect : Byte := 0x02#8
@[simp] abbrev opcStart : Byte := 0x03#8
@[simp] abbrev opcStop : Byte := 0x04#8
@[simp] abbrev opcStatus : Byte := 0x05#8
@[simp] abbrev opcEncode : Byte := 0x10#8
@[simp] abbrev opcDecode : Byte := 0x11#8
@[simp] abbrev opcChecksum : Byte := 0x12#8
@[simp] abbrev opcSend : Byte := 0x20#8
@[simp] abbrev opcSendAcked : Byte := 0x21#8
@[simp] abbrev opcSubscribe : Byte := 0x30#8
@[simp] abbrev opcUnsubscribe : Byte := 0x31#8

/-! ### Command descriptors -/

/-- Why a byte string spells no instruction. -/
inductive DecodeError where
  /-- An empty descriptor (R134). -/
  | emptyDescriptor
  /-- A reserved OPC value (R131, R134). -/
  | reservedOpcode
  /-- A descriptor whose length is not its opcode's (R135). -/
  | descriptorLength
  /-- A chunk that is not 25 bytes long (R120). -/
  | frameLength
  /-- A marker that is neither DATA nor ACK (R122). -/
  | unknownMarker
  deriving DecidableEq, Repr

/-- Format H after OPC: TAG alone (R132). -/
def decodeFormatH (mk : Byte → Instr) : List Byte → Except DecodeError Instr
  | [tag] => .ok (mk tag)
  | _ => .error .descriptorLength

/-- Format F after OPC: TAG NODE KIND IDENT LEN PCOUNT PAYLOAD[8] (R132). -/
def decodeFormatF (mk : Byte → Byte → Byte → Word → Byte → Byte → List Byte → Instr) :
    List Byte → Except DecodeError Instr
  | tag :: node :: kind :: i0 :: i1 :: i2 :: i3 :: len :: pcount :: payload =>
    if payload.length = payloadField then .ok (mk tag node kind (word32 i0 i1 i2 i3) len pcount payload)
    else .error .descriptorLength
  | _ => .error .descriptorLength

/-- Format D after OPC: TAG BLEN BYTES[BLEN] (R132, R135). -/
def decodeFormatD (mk : Byte → List Byte → Instr) : List Byte → Except DecodeError Instr
  | tag :: blen :: bytes => if bytes.length = blen.toNat then .ok (mk tag bytes) else .error .descriptorLength
  | _ => .error .descriptorLength

/-- Format C after OPC: TAG DATA[21] (R132). -/
def decodeFormatC (mk : Byte → List Byte → Instr) : List Byte → Except DecodeError Instr
  | tag :: data => if data.length = crcSpan then .ok (mk tag data) else .error .descriptorLength
  | _ => .error .descriptorLength

/-- Format S after OPC: TAG IDENT MARKER LID MODE (R132). -/
def decodeFormatS (mk : Byte → Word → Half → Half → Byte → Instr) : List Byte → Except DecodeError Instr
  | [tag, i0, i1, i2, i3, m0, m1, l0, l1, mode] =>
    .ok (mk tag (word32 i0 i1 i2 i3) (word16 m0 m1) (word16 l0 l1) mode)
  | _ => .error .descriptorLength

/-- The command decoder: the opcode map of R131, then the format of R132. -/
def decodeDescriptor : List Byte → Except DecodeError Instr
  | [] => .error .emptyDescriptor
  | opc :: rest =>
    if opc = opcConnect then decodeFormatH .connect rest
    else if opc = opcDisconnect then decodeFormatH .disconnect rest
    else if opc = opcStart then decodeFormatH .start rest
    else if opc = opcStop then decodeFormatH .stop rest
    else if opc = opcStatus then decodeFormatH .status rest
    else if opc = opcEncode then decodeFormatF .encode rest
    else if opc = opcDecode then decodeFormatD .decode rest
    else if opc = opcChecksum then decodeFormatC .checksum rest
    else if opc = opcSend then decodeFormatF .send rest
    else if opc = opcSendAcked then decodeFormatF .sendAcked rest
    else if opc = opcSubscribe then decodeFormatS .subscribe rest
    else if opc = opcUnsubscribe then decodeFormatS .unsubscribe rest
    else .error .reservedOpcode

/-! ### Wire frames -/

/-- The frame decoder: 25 bytes, one of the two markers, the fields at the offsets of R120, R121. Whether the length byte and the
checksum are valid is the codec's question (40_codec.md R220), not the encoding's. -/
def decodeFrame (F : List Byte) : Except DecodeError Instr :=
  if F.length = frameLen then
    if le16 F 0 = markerData then
      .ok (.dataFrame (le32 F 2) (byteAt F 6) (byteAt F 7) (le32 F 8) (byteAt F 12) (slice F 13 21) (le32 F 21))
    else if le16 F 0 = markerAck then
      .ok (.ackFrame (le32 F 2) (byteAt F 6) (byteAt F 7) (le32 F 8) (byteAt F 12) (slice F 13 21) (le32 F 21))
    else .error .unknownMarker
  else .error .frameLength

/-! ### The encoder -/

/-- Bytes 0..20 of a wire frame: the part the checksum covers (R120, R121). -/
def frameHead (marker : Half) (tick : Word) (node kind : Byte) (ident : Word) (len : Byte) (payload : List Byte) : List Byte :=
  bytesLe16 marker ++ bytesLe32 tick ++ [node, kind] ++ bytesLe32 ident ++ [len] ++ payload

/-- Field insertion of R121. -/
def frameBytes (marker : Half) (tick : Word) (node kind : Byte) (ident : Word) (len : Byte) (payload : List Byte)
    (checksum : Word) : List Byte :=
  frameHead marker tick node kind ident len payload ++ bytesLe32 checksum

/-- A format F descriptor (R132). -/
def encodeFormatF (opc tag node kind : Byte) (ident : Word) (len pcount : Byte) (payload : List Byte) : List Byte :=
  [opc, tag, node, kind] ++ bytesLe32 ident ++ [len, pcount] ++ payload

/-- A format S descriptor (R132). -/
def encodeFormatS (opc tag : Byte) (ident : Word) (marker lid : Half) (mode : Byte) : List Byte :=
  [opc, tag] ++ bytesLe32 ident ++ bytesLe16 marker ++ bytesLe16 lid ++ [mode]

/-- The bytes of an instruction, on the command port or on the wire (R120, R131, R132). -/
def encode : Instr → List Byte
  | .connect tag => [opcConnect, tag]
  | .disconnect tag => [opcDisconnect, tag]
  | .start tag => [opcStart, tag]
  | .stop tag => [opcStop, tag]
  | .status tag => [opcStatus, tag]
  | .encode tag node kind ident len pcount payload => encodeFormatF opcEncode tag node kind ident len pcount payload
  | .decode tag bytes => [opcDecode, tag, BitVec.ofNat 8 bytes.length] ++ bytes
  | .checksum tag data => [opcChecksum, tag] ++ data
  | .send tag node kind ident len pcount payload => encodeFormatF opcSend tag node kind ident len pcount payload
  | .sendAcked tag node kind ident len pcount payload => encodeFormatF opcSendAcked tag node kind ident len pcount payload
  | .subscribe tag ident marker lid mode => encodeFormatS opcSubscribe tag ident marker lid mode
  | .unsubscribe tag ident marker lid mode => encodeFormatS opcUnsubscribe tag ident marker lid mode
  | .dataFrame tick node kind ident len payload checksum => frameBytes markerData tick node kind ident len payload checksum
  | .ackFrame tick node kind ident len payload checksum => frameBytes markerAck tick node kind ident len payload checksum

/-- The instruction is a wire frame: it arrives on the bulk IN port, not on the command port (R8). -/
def Instr.onWire : Instr → Bool
  | .dataFrame _ _ _ _ _ _ _ => true
  | .ackFrame _ _ _ _ _ _ _ => true
  | .connect _ => false
  | .disconnect _ => false
  | .start _ => false
  | .stop _ => false
  | .status _ => false
  | .encode _ _ _ _ _ _ _ => false
  | .decode _ _ => false
  | .checksum _ _ => false
  | .send _ _ _ _ _ _ _ => false
  | .sendAcked _ _ _ _ _ _ _ => false
  | .subscribe _ _ _ _ _ => false
  | .unsubscribe _ _ _ _ _ => false

/-- The decoder of the port an instruction arrives on. -/
def decodeAs (wire : Bool) (B : List Byte) : Except DecodeError Instr :=
  if wire then decodeFrame B else decodeDescriptor B

/-! ### The words of spec/opcode_table.json -/

/-- The length a descriptor must have, read from its first byte and, for DECODE, its third (R131, R138). -/
def descriptorLength (d : List Byte) : Nat :=
  let opc := byteAt d 0
  if opc = opcEncode || opc = opcSend || opc = opcSendAcked then 18
  else if opc = opcDecode then 3 + (byteAt d 2).toNat
  else if opc = opcChecksum then 23
  else if opc = opcSubscribe || opc = opcUnsubscribe then 11
  else 2

/-- The `n` bytes of the number `w`, the first being its least significant. -/
def bytesOfNat : Nat → Nat → List Byte
  | 0, _ => []
  | n + 1, w => BitVec.ofNat 8 w :: bytesOfNat n (w / 256)

/-- A row of 16 or more bits that begins with one of the two markers is a wire frame. No opcode is 0xFF or 0xAA. -/
def tableWordOnWire (nbits w : Nat) : Bool :=
  decide (16 ≤ nbits) && (decide (w % 65536 = markerData.toNat) || decide (w % 65536 = markerAck.toNat))

/-- The whole instruction of a table row's word: its bytes, then zeros up to the instruction's length. -/
def tableWordBytes (nbits w : Nat) : List Byte :=
  let head := bytesOfNat (nbits / 8) w
  let size := if tableWordOnWire nbits w then frameLen else descriptorLength head
  head ++ List.replicate (size - head.length) 0

/-- The instruction the decoder reads from a table row's word. -/
def decodeTableWord (nbits w : Nat) : Option Instr :=
  (decodeAs (tableWordOnWire nbits w) (tableWordBytes nbits w)).toOption

end Sys2Proof
end

