-- ==== Sys2Proof/Machine/Tables.lean ====
section
/-!
DEFINITION. The two checksum tables of 40_codec.md R201, R202, by the generators the rules give, and the default configuration of
00_scope.md R10.
-/

namespace Sys2Proof.Machine

/-- Apply `f` eight times: the `repeat 8 times` of R201 and R202. -/
def eightTimes (f : Word → Word) (c : Word) : Word := f (f (f (f (f (f (f (f c)))))))

/-- One round of the generator of `T_MSB` (R201). -/
def msbRound (c : Word) : Word := if c.getLsbD 31 then (c <<< 1) ^^^ 0x04C11DB7#32 else c <<< 1

/-- `T_MSB[i]` (R201). -/
def msbEntry (i : Nat) : Word := eightTimes msbRound (BitVec.ofNat 32 i <<< 24)

/-- One round of the generator of `T_REFL` (R202). -/
def reflRound (c : Word) : Word := if c.getLsbD 0 then (c >>> 1) ^^^ 0xEDB88320#32 else c >>> 1

/-- `T_REFL[i]` (R202). -/
def reflEntry (i : Nat) : Word := eightTimes reflRound (BitVec.ofNat 32 i)

/-- The 256-entry table of a generator. -/
def tableOf (entry : Nat → Word) : Vector Word 256 := ⟨((List.range 256).map entry).toArray, by simp⟩

/-- `T_MSB`, the spec's default table (R201, D3). -/
def tMsb : Vector Word 256 := tableOf msbEntry

/-- `T_REFL`, the alternative table (R202, D3). -/
def tRefl : Vector Word 256 := tableOf reflEntry

/-- The defaults of R10, which State.reset holds (DESIGN CHOICE, assumption log 10). -/
def defaultConfig : Config where
  crcTable := tMsb
  txTick := 0
  dlcPolicy := .reject
  maxKeys := none
  maxListeners := none
  listenerIdBits := 16
  rxReadTimeoutMs := 10
  ackPollMs := 1
  ackTimeoutMs := 100

end Sys2Proof.Machine
end

