-- ==== Sys2Proof/Machine/State.lean ====
section
/-!
DEFINITION. The state of the SCFE: every element of 10_state.md R42, the transactions those rules imply, and, beside them, the
configuration, the inputs, the agenda of moves and the log of outward events. State.reset is 70_reset_and_hazards.md R450.
-/

namespace Sys2Proof.Machine

/-- A byte buffer of 20_memory.md R84: (offset, byte) pairs, offsets strictly rising. An offset that is not listed has no value:
its content is unspecified and reading it faults (assumption log 4). -/
abbrev Memory := List Host.Cell

/-- Response status codes (60_exceptions.md R400). -/
inductive Status where
  | ok
  | invalid
  | argError
  | writeFailed
  | noAck
  | busy
  | full
  | noDevice
  | notConnected
  | badCommand
  deriving DecidableEq, Repr

/-- DECODE reason codes (R401); NONE is the code of an OK response. -/
inductive Reason where
  | badLength
  | badMarker
  | badDlc
  | badChecksum
  deriving DecidableEq, Repr

/-- A DecodedFrame (40_codec.md R222). The fields `payload` and the four texts are computed from these (90_conflicts.md C8,
assumption log 13). -/
structure DecodedFrame where
  marker : Half
  tick : Word
  node : Byte
  kind : Byte
  identifier : Word
  length : Byte
  payloadRaw : List Byte
  checksum : Word
  deriving DecidableEq, Repr

/-- A SubscriptionKey (R50). -/
structure Key where
  marker : Half
  identifier : Word
  deriving DecidableEq, Repr

/-- A listener handle (R51): an external listener, or the correlator's internal listener of one arming. -/
inductive Handle where
  | ext (lid : Half)
  | int (gen : Word)
  deriving DecidableEq, Repr

/-- How a listener is delivered to (R51, R301). -/
inductive ListenMode where
  | sync
  | async
  deriving DecidableEq, Repr

/-- One entry of the subscription table (R51). -/
structure Entry where
  lid : Handle
  mode : ListenMode
  deriving DecidableEq, Repr

/-- `subs` (R52): keys with their lists, in rising order of the key, so that equal maps are equal lists (assumption log 12). -/
abbrev SubTable := List (Key × List Entry)

/-- `cmd_state` (R43): the descriptor being executed is kept whole (20_memory.md R84 space CMD, R99). -/
inductive CmdState where
  | idle
  | exec (desc : List Byte)
  deriving DecidableEq, Repr

/-- `rd_state` (R46). -/
inductive RdState where
  | idle
  | readPending
  | dispatching
  deriving DecidableEq, Repr

/-- `disp_state` (R53). In `sync f l k waiting` the flag says that the delivery to the first synchronous entry at or after `k` has
been made and its completion is awaited (R313, assumption log 5). -/
inductive DispState where
  | idle
  | sync (f : DecodedFrame) (l : List Entry) (k : Nat) (waiting : Bool)
  | async (f : DecodedFrame) (w : List Handle)
  deriving DecidableEq, Repr

/-- The record of a PendingCorrelation (R55). -/
structure Correlation where
  tag : Byte
  identifier : Word
  gen : Word
  pollsLeft : Nat
  captured : Option Word
  deriving DecidableEq, Repr

/-- `corr` (R55), one slot (R56; DEDUCED, assumption log 16). -/
inductive CorrState where
  | idle
  | writing (c : Correlation)
  | armed (c : Correlation)
  deriving DecidableEq, Repr

/-- The OUT write transaction that SEND and SEND_ACKED await (41_transport.md R274, R275; assumption log 6). -/
inductive OutPort where
  | idle
  | busy
  | done (written : Fin 26)
  deriving DecidableEq, Repr

/-- The outward events (60_exceptions.md R408): responses, deliveries and USB transactions. -/
inductive OutEvent where
  /-- A response on the command port (R133). -/
  | response (bytes : List Byte)
  /-- `deliver(h, f)` on the listener port (42_dispatcher.md R316). -/
  | deliver (h : Handle) (f : DecodedFrame)
  /-- `usb_open(USB_VID, USB_PID, USB_INTERFACE)` asked of the USB layer (R260). -/
  | usbOpen (vid pid iface : Nat)
  /-- A bulk IN read issued, with its size and timeout (R265). -/
  | usbRead (size timeoutMs : Nat)
  /-- The outstanding bulk IN read cancelled (R270). -/
  | usbCancel
  /-- A bulk OUT write issued (R274). -/
  | usbWrite (bytes : List Byte)
  deriving DecidableEq, Repr

/-- The state of the machine. -/
structure State where
  /-- The parameters of R10; no step changes them (assumption log 9). -/
  cfg : Config
  /-- `cmd_state` (R43). -/
  cmdState : CmdState
  /-- `connected` (R44). -/
  connected : Bool
  /-- `running` (R45). -/
  running : Bool
  /-- `stop_req` (R45). -/
  stopReq : Bool
  /-- `rd_state` (R46). -/
  rdState : RdState
  /-- `rx_buf` (R47). -/
  rxBuf : Memory
  /-- `rx_len` (R47). -/
  rxLen : Nat
  /-- `batch` (R48). -/
  batch : List DecodedFrame
  /-- `tx_buf` (R49). -/
  txBuf : Memory
  /-- `subs` (R52). -/
  subs : SubTable
  /-- `disp_state` (R53). -/
  dispState : DispState
  /-- `corr` (R55). -/
  corr : CorrState
  /-- `arm_gen` (R62). -/
  armGen : Word
  /-- The OUT write transaction (R274, R275). -/
  outPort : OutPort
  /-- The input `dev_present` (R8). -/
  devPresent : Bool
  /-- The outward events so far, oldest first: the model's own log (assumption log 14). -/
  out : List OutEvent
  /-- The moves that come next, the first one first: the model's own schedule (assumption log 1). -/
  agenda : List Move
  /-- How many moves have been drawn from `Config.nextMove`: the model's own counter (assumption log 3). -/
  clock : Nat
  deriving DecidableEq, Repr

/-- Why the machine stops. The spec has no trap (R406), so this is the one stop of the model. -/
inductive Fault where
  /-- A MemRead of a buffer outside the bounds of R84 or of a byte nothing has written (93_implementation_defined.md: "a model that
  reads them must fault"). Raised by the OUT write of SEND and SEND_ACKED and by the deframe step. Safe: the machine stops; no
  well-formed state reaches it. -/
  | bufferRange
  deriving DecidableEq, Repr

/-- Why an instruction has no meaning. -/
inductive Refusal where
  /-- Raised by exec's arm of an instruction that has no meaning yet. Safe: no claim can be proved of it. No arm raises it now. -/
  | notModelled (mnemonic : String)
  deriving DecidableEq, Repr

/-- Reset (R450): every element at the value of R42's reset column, the buffers unspecified, no transaction in flight (R451), the
configuration at its defaults (R10; DESIGN CHOICE, assumption log 10) and the device present (30_encoding.md R139; DESIGN CHOICE,
assumption log 22). -/
def State.reset : State where
  cfg := defaultConfig
  cmdState := .idle
  connected := false
  running := false
  stopReq := false
  rdState := .idle
  rxBuf := []
  rxLen := 0
  batch := []
  txBuf := []
  subs := []
  dispState := .idle
  corr := .idle
  armGen := 0
  outPort := .idle
  devPresent := true
  out := []
  agenda := []
  clock := 0

end Sys2Proof.Machine
end

