-- ==== Sys2Proof/Machine/Flags.lean ====
section
/-!
DEFINITION. The codes a response carries (60_exceptions.md R400, R401), the derived flags and the STATUS view (10_state.md R57,
R58). The SCFE has no condition codes.
-/

namespace Sys2Proof.Machine

/-- The code of a status (R400). -/
def Status.code : Status → Byte
  | .ok => 0x00
  | .invalid => 0x01
  | .argError => 0x02
  | .writeFailed => 0x03
  | .noAck => 0x04
  | .busy => 0x05
  | .full => 0x06
  | .noDevice => 0x07
  | .notConnected => 0x08
  | .badCommand => 0x09

/-- The code of a reason (R401). -/
def Reason.code : Reason → Byte
  | .badLength => 0x01
  | .badMarker => 0x02
  | .badDlc => 0x03
  | .badChecksum => 0x04

/-- The link check of START, SEND and SEND_ACKED, and the CONNECTED bit (R44, R58): the cached flag and the live input. -/
def linkUp (s : State) : Bool := s.connected && s.devPresent

/-- The busy indication `corr ≠ IDLE` (R57). -/
def corrBusy (s : State) : Bool := decide (s.corr ≠ .idle)

/-- `disp_state ≠ IDLE` (R58). -/
def dispatchBusy (s : State) : Bool := decide (s.dispState ≠ .idle)

/-- One flag at bit `i` of a byte. -/
def flagBit (b : Bool) (i : Nat) : Byte := if b then 1#8 <<< i else 0#8

/-- The STATUS view (R58): bit 0 CONNECTED, bit 1 RUNNING, bit 2 CORR_BUSY, bit 3 DISPATCHING, bits 7:4 zero. -/
def statusView (s : State) : Byte :=
  flagBit (linkUp s) 0 ||| flagBit s.running 1 ||| flagBit (corrBusy s) 2 ||| flagBit (dispatchBusy s) 3

end Sys2Proof.Machine
end

