-- ==== Sys2Proof/Machine/Ops.lean ====
section
/-!
DEFINITION. The named operations every meaning is written with: ordered tables and byte buffers (20_memory.md R84), responses and
the `raise` of 00_scope.md R14, the OUT write, and the two updates of the subscription table (42_dispatcher.md R300, R305).
The SCFE takes no exception (60_exceptions.md R406): `raise` is all an error does.
-/

namespace Sys2Proof.Machine

/-- The three outcomes of an instruction or a step of this machine. -/
abbrev Result := Host.Outcome State Fault Refusal

/-- Go on with `f` from the next state; a fault or a refusal ends the step. -/
def Result.andThen (r : Result) (f : State → Result) : Result :=
  match r with
  | .next s => f s
  | .fault e => .fault e
  | .refused e => .refused e

/-! ### Ordered tables: lists of pairs in strictly rising order of their keys' codes -/

/-- `M[k]` (R15). -/
def tableFind {κ ν : Type} (code : κ → Nat) (k : κ) : List (κ × ν) → Option ν
  | [] => none
  | (k', v) :: m => if code k = code k' then some v else tableFind code k m

/-- `M[k := v]` (R15). -/
def tableInsert {κ ν : Type} (code : κ → Nat) (k : κ) (v : ν) : List (κ × ν) → List (κ × ν)
  | [] => [(k, v)]
  | (k', v') :: m =>
    if code k < code k' then (k, v) :: (k', v') :: m
    else if code k = code k' then (k, v) :: m
    else (k', v') :: tableInsert code k v m

/-- `M \ k` (R15). -/
def tableErase {κ ν : Type} (code : κ → Nat) (k : κ) : List (κ × ν) → List (κ × ν)
  | [] => []
  | (k', v') :: m => if code k = code k' then m else (k', v') :: tableErase code k m

/-- The canonical form of a table: the codes rise strictly. -/
def tableOrdered {κ ν : Type} (code : κ → Nat) : List (κ × ν) → Bool
  | [] => true
  | [_] => true
  | a :: b :: m => decide (code a.1 < code b.1) && tableOrdered code (b :: m)

/-! ### Byte buffers (R84) -/

/-- The byte at an offset, if one was written. -/
def Memory.read (m : Memory) (a : Nat) : Option Byte := tableFind id a m

/-- Write one byte. -/
def Memory.write (m : Memory) (a : Nat) (b : Byte) : Memory := tableInsert id a b m

/-- The canonical form of a buffer. -/
def Memory.wf (m : Memory) : Bool := tableOrdered id m

/-- The `n` bytes from offset `a` on, if all were written. -/
def Memory.readBytes (m : Memory) (a : Nat) : Nat → Option (List Byte)
  | 0 => some []
  | n + 1 =>
    match Memory.read m a, Memory.readBytes m (a + 1) n with
    | some b, some bs => some (b :: bs)
    | _, _ => none

/-- `MemWrite(X + a, n, v)` (R14). -/
def Memory.writeBytes (m : Memory) (a : Nat) : List Byte → Memory
  | [] => m
  | b :: bs => Memory.writeBytes (Memory.write m a b) (a + 1) bs

/-- `MemRead(X + a, n)`, defined only for `a + n ≤ limit` (R84). -/
def memRead (m : Memory) (limit a n : Nat) : Option (List Byte) :=
  if a + n ≤ limit then Memory.readBytes m a n else none

/-! ### Outward events and responses (R133, R408) -/

/-- Record an outward event. -/
def emit (e : OutEvent) (s : State) : State := { s with out := s.out ++ [e] }

/-- Record several outward events, in order. -/
def emitAll (es : List OutEvent) (s : State) : State := { s with out := s.out ++ es }

/-! ### The transactions issued so far

A completion names its transaction by its number among those of its kind (assumption log 23). The log keeps what a reset or a STOP
abandons, so a number is never given twice, and at most one transaction of a kind is outstanding: the latest (R269, R275, R318). -/

/-- The event asks `usb_open` of the USB layer (R260). -/
def OutEvent.isOpen : OutEvent → Bool
  | .usbOpen _ _ _ => true
  | .response _ => false
  | .deliver _ _ => false
  | .usbRead _ _ => false
  | .usbCancel => false
  | .usbWrite _ => false

/-- The event issues a bulk IN read (R265). -/
def OutEvent.isRead : OutEvent → Bool
  | .usbRead _ _ => true
  | .response _ => false
  | .deliver _ _ => false
  | .usbOpen _ _ _ => false
  | .usbCancel => false
  | .usbWrite _ => false

/-- The event issues a bulk OUT write (R274). -/
def OutEvent.isWrite : OutEvent → Bool
  | .usbWrite _ => true
  | .response _ => false
  | .deliver _ _ => false
  | .usbOpen _ _ _ => false
  | .usbRead _ _ => false
  | .usbCancel => false

/-- The event is a delivery to the external listener `lid` (R313, R314). -/
def OutEvent.isDeliveryTo (lid : Half) : OutEvent → Bool
  | .deliver h _ => decide (h = .ext lid)
  | .response _ => false
  | .usbOpen _ _ _ => false
  | .usbRead _ _ => false
  | .usbCancel => false
  | .usbWrite _ => false

/-- How many `usb_open` were asked: the number of the latest. -/
def opensIssued (out : List OutEvent) : Nat := out.countP OutEvent.isOpen

/-- How many bulk IN reads were issued: the number of the latest. -/
def readsIssued (out : List OutEvent) : Nat := out.countP OutEvent.isRead

/-- How many OUT writes were issued: the number of the latest. -/
def writesIssued (out : List OutEvent) : Nat := out.countP OutEvent.isWrite

/-- How many deliveries were made to the external listener `lid`: the number of the latest. -/
def deliveriesTo (lid : Half) (out : List OutEvent) : Nat := out.countP (OutEvent.isDeliveryTo lid)

/-- A completion of transaction `n` of a kind whose latest is `latest`: one of an earlier transaction, abandoned by a reset (R451), by
a STOP (R270) or by its end, is ignored (R408); the latest one's goes on with `f`, which ignores it if it is no longer awaited. -/
def ofLatest (n latest : Nat) (f : State → Result) (s : State) : Result := if n = latest then f s else .next s

/-- The bytes of a response: OPC, TAG, STATUS, then the result bytes (R133). -/
def responseBytes (opc tag : Byte) (st : Status) (data : List Byte) : List Byte := [opc, tag, st.code] ++ data

/-- Return a response without releasing the command port: the deferred answer of SEND_ACKED (43_correlator.md R346, R347). -/
def answer (opc tag : Byte) (st : Status) (data : List Byte) (s : State) : State :=
  emit (.response (responseBytes opc tag st data)) s

/-- `respond(S, data)` (R14): the command in progress ends and the port accepts the next one (10_state.md R43). -/
def respond (opc tag : Byte) (st : Status) (data : List Byte) (s : State) : State :=
  { answer opc tag st data s with cmdState := .idle }

/-- `raise S()` (R14): the command ends with status S and no result bytes; nothing else is written. -/
def raise (opc tag : Byte) (st : Status) (s : State) : State := respond opc tag st [] s

/-! ### The transmit buffer and the OUT write (R274) -/

/-- `MemWrite(TXB + 0, 25, F)` (40_codec.md R210). -/
def storeFrame (F : List Byte) (s : State) : State := { s with txBuf := Memory.writeBytes s.txBuf 0 F }

/-- Issue a bulk OUT write of `MemRead(TXB + 0, 25)` (R274, R275). -/
def issueWrite (s : State) : Result :=
  match memRead s.txBuf frameLen 0 frameLen with
  | some F => .next (emit (.usbWrite F) { s with outPort := .busy })
  | none => .fault .bufferRange

/-! ### The subscription table (10_state.md R50-R52) -/

/-- The order of keys: by marker, then by identifier. Equal codes are equal keys (R50). -/
def Key.code (k : Key) : Nat := k.marker.toNat * 2 ^ 32 + k.identifier.toNat

/-- `subs[k]`, if `k ∈ dom subs`. -/
def SubTable.find (t : SubTable) (k : Key) : Option (List Entry) := tableFind Key.code k t

/-- The list under a key, empty if the key is absent. -/
def SubTable.listeners (t : SubTable) (k : Key) : List Entry := (SubTable.find t k).getD []

/-- Append an entry to a key's list, creating the key if it is absent (R300, 43_correlator.md R343). -/
def SubTable.register (t : SubTable) (k : Key) (e : Entry) : SubTable :=
  tableInsert Key.code k (SubTable.listeners t k ++ [e]) t

/-- Remove a handle's entry from a key's list, and the key if its list becomes empty (R305, R306). -/
def SubTable.unregister (t : SubTable) (k : Key) (h : Handle) : SubTable :=
  match SubTable.find t k with
  | none => t
  | some l =>
    match l.filter (fun e => decide (e.lid ≠ h)) with
    | [] => tableErase Key.code k t
    | e :: l' => tableInsert Key.code k (e :: l') t

/-- The entry has an external handle. -/
def Entry.isExt (e : Entry) : Bool :=
  match e.lid with
  | .ext _ => true
  | .int _ => false

/-- `ext_count(L)` (R300). -/
def extCount (l : List Entry) : Nat := l.countP Entry.isExt

/-- `ext_keys(subs)` (R300). -/
def extKeys (t : SubTable) : Nat := t.countP (fun kl => kl.2.any Entry.isExt)

/-- `n` has reached the limit; no limit is never reached (R304). -/
def limitReached (limit : Option Nat) (n : Nat) : Bool :=
  match limit with
  | none => false
  | some m => decide (m ≤ n)

end Sys2Proof.Machine
end

