-- ==== Sys2Proof/Machine/Operands.lean ====
section
/-!
DEFINITION. The operand checks and views of the commands: the frame arguments of ENCODE, SEND and SEND_ACKED (40_codec.md R211,
R212) and the LID, MODE and key operands of SUBSCRIBE and UNSUBSCRIBE (30_encoding.md R132, R136).
-/

namespace Sys2Proof.Machine

/-- The three checks of R211: `LEN ≤ 8`, `PCOUNT ≤ 8`, `PCOUNT ≤ LEN`. -/
def frameArgsOk (len pcount : Byte) : Bool :=
  decide (len ≤ maxDlc) && decide (pcount.toNat ≤ payloadField) && decide (pcount ≤ len)

/-- The 8-byte payload field (R210, R212): byte `j` of PAYLOAD for `j < PCOUNT`, zero from PCOUNT on. -/
def payloadBytes (pcount : Byte) (payload : List Byte) : List Byte :=
  (List.range payloadField).map (fun j => if j < pcount.toNat then byteAt payload j else 0#8)

/-- LID bits at or above `LISTENER_ID_BITS` are zero (R136). -/
def lidFits (c : Config) (lid : Half) : Bool := decide (lid.toNat >>> c.listenerIdBits = 0)

/-- MODE bits 7:1 are zero (R136). -/
def modeFits (mode : Byte) : Bool := decide (mode.extractLsb' 1 7 = 0#7)

/-- MODE bit 0: 0 is SYNC, 1 is ASYNC (R132). -/
def listenModeOf (mode : Byte) : ListenMode := if mode.getLsbD 0 then .async else .sync

end Sys2Proof.Machine
end

