-- ==== Sys2Proof/Machine/Codec.lean ====
section
/-!
DEFINITION. The Frame Codec Unit (40_codec.md): the checksum, the procedures `encode` and `decode`, the text renderings, and the
meanings of CHECKSUM, ENCODE and DECODE.
-/

namespace Sys2Proof.Machine

/-! ### The checksum (R200-R206) -/

/-- The table index of one update: `((crc >> 24) ^ b) & 0xFF` (R203). -/
def crcIndex (crc : Word) (b : Byte) : Byte := (((crc >>> 24) ^^^ b.setWidth 32) &&& 0xFF#32).setWidth 8

/-- One update of the accumulator (R203). -/
def crcUpdate (table : Vector Word 256) (crc : Word) (b : Byte) : Word :=
  ((crc <<< 8) ^^^ table[(crcIndex crc b).toNat]'(crcIndex crc b).isLt) &&& 0xFFFFFFFF#32

/-- `crc32_ssb(B)` (R203, R204). -/
def crc32Ssb (table : Vector Word 256) (B : List Byte) : Word := B.foldl (crcUpdate table) 0x00000000#32

/-! ### The procedure `encode` (R210-R213) -/

/-- The 25 bytes of an outbound frame: marker DATA, tick `TX_TICK`, the checksum over the first 21 bytes (R210, R213). -/
def outboundFrame (c : Config) (node kind : Byte) (ident : Word) (len pcount : Byte) (payload : List Byte) : List Byte :=
  let head := frameHead markerData c.txTick node kind ident len (payloadBytes pcount payload)
  head ++ bytesLe32 (crc32Ssb c.crcTable head)

/-- `encode` (R210) without its write of TXB: `none` where it raises ARG_ERROR (R211). -/
def encodeFrame (c : Config) (node kind : Byte) (ident : Word) (len pcount : Byte) (payload : List Byte) : Option (List Byte) :=
  if frameArgsOk len pcount then some (outboundFrame c node kind ident len pcount payload) else none

/-! ### The procedure `decode` (R220-R225) -/

/-- `Lp = min(L, MAX_DLC)` (R220). -/
def clampDlc (len : Byte) : Byte := if len ≤ maxDlc then len else maxDlc

/-- `frame_record(B, Lp)` (R222). -/
def frameRecord (B : List Byte) (lp : Byte) : DecodedFrame where
  marker := le16 B 0
  tick := le32 B 2
  node := byteAt B 6
  kind := byteAt B 7
  identifier := le32 B 8
  length := lp
  payloadRaw := slice B 13 21
  checksum := le32 B 21

/-- `decode(B)` (R220): length, marker, declared length, checksum, in this order (R221). -/
def decodeBytes (c : Config) (B : List Byte) : Except Reason DecodedFrame :=
  if B.length ≠ frameLen then .error .badLength
  else if le16 B 0 ≠ markerData ∧ le16 B 0 ≠ markerAck then .error .badMarker
  else if maxDlc < byteAt B 12 ∧ c.dlcPolicy = .reject then .error .badDlc
  else if le32 B 21 ≠ crc32Ssb c.crcTable (slice B 0 crcSpan) then .error .badChecksum
  else .ok (frameRecord B (clampDlc (byteAt B 12)))

/-! ### Text (R16, R226-R228) -/

/-- The ASCII code of one uppercase hexadecimal digit (R16). -/
def hexDigit (n : Nat) : Byte := if n < 10 then BitVec.ofNat 8 (0x30 + n) else BitVec.ofNat 8 (0x37 + n)

/-- `hex2(b)` (R16). -/
def hex2 (b : Byte) : List Byte := [hexDigit (b.toNat / 16), hexDigit (b.toNat % 16)]

/-- The last `n` hexadecimal digits of `v`, most significant first. -/
def hexDigits : Nat → Nat → List Nat
  | 0, _ => []
  | n + 1, v => hexDigits n (v / 16) ++ [v % 16]

/-- Drop leading zeros, keeping at least one digit (R16). -/
def dropLeadingZeros : List Nat → List Nat
  | [] => []
  | [d] => [d]
  | 0 :: d :: ds => dropLeadingZeros (d :: ds)
  | (e + 1) :: d :: ds => (e + 1) :: d :: ds

/-- `hexU(v)` of a value of at most 32 bits (R16). -/
def hexU (v : Nat) : List Byte := (dropLeadingZeros (hexDigits 8 v)).map hexDigit

/-- `render_hex(v) = "0x" ++ hexU(v)` (R226). -/
def renderHex (v : Nat) : List Byte := [0x30#8, 0x78#8] ++ hexU v

/-- `render_payload(P)`: the `hex2` spellings joined by one space (R227). -/
def renderPayload : List Byte → List Byte
  | [] => []
  | [b] => hex2 b
  | b :: b' :: bs => hex2 b ++ [0x20#8] ++ renderPayload (b' :: bs)

/-- `render_checksum(C)`: the `hex2` spellings in wire order, no separators (R228). -/
def renderChecksum (C : List Byte) : List Byte := C.flatMap hex2

/-- `payload`: the first `length` bytes of the payload field (R222, R223). -/
def DecodedFrame.payload (f : DecodedFrame) : List Byte := f.payloadRaw.take f.length.toNat

/-- `identifier_txt` (R222). -/
def DecodedFrame.identifierTxt (f : DecodedFrame) : List Byte := renderHex f.identifier.toNat

/-- `marker_txt` (R222). -/
def DecodedFrame.markerTxt (f : DecodedFrame) : List Byte := renderHex f.marker.toNat

/-- `payload_txt` (R222). -/
def DecodedFrame.payloadTxt (f : DecodedFrame) : List Byte := renderPayload (DecodedFrame.payload f)

/-- `checksum_txt` (R222): the wire bytes of the checksum are `bytes_le32` of it (R206). -/
def DecodedFrame.checksumTxt (f : DecodedFrame) : List Byte := renderChecksum (bytesLe32 f.checksum)

/-- A text with its length before it (R229). -/
def countedText (t : List Byte) : List Byte := BitVec.ofNat 8 t.length :: t

/-- The result bytes of an OK response of DECODE, offsets 3 on (R229). -/
def decodeRecord (f : DecodedFrame) : List Byte :=
  [0x00#8] ++ bytesLe16 f.marker ++ bytesLe32 f.tick ++ [f.node, f.kind] ++ bytesLe32 f.identifier ++ [f.length]
    ++ f.payloadRaw ++ bytesLe32 f.checksum ++ countedText (DecodedFrame.identifierTxt f)
    ++ countedText (DecodedFrame.markerTxt f) ++ countedText (DecodedFrame.payloadTxt f)
    ++ countedText (DecodedFrame.checksumTxt f)

/-! ### The commands -/

/-- CHECKSUM (R207). -/
def execChecksum (tag : Byte) (data : List Byte) (s : State) : Result :=
  .next (respond opcChecksum tag .ok (bytesLe32 (crc32Ssb s.cfg.crcTable data)) s)

/-- ENCODE (R210-R213). -/
def execEncode (tag node kind : Byte) (ident : Word) (len pcount : Byte) (payload : List Byte) (s : State) : Result :=
  match encodeFrame s.cfg node kind ident len pcount payload with
  | none => .next (raise opcEncode tag .argError s)
  | some F => .next (respond opcEncode tag .ok F (storeFrame F s))

/-- DECODE (R220-R229). -/
def execDecode (tag : Byte) (bytes : List Byte) (s : State) : Result :=
  match decodeBytes s.cfg bytes with
  | .error r => .next (respond opcDecode tag .invalid [r.code] s)
  | .ok f => .next (respond opcDecode tag .ok (decodeRecord f) s)

end Sys2Proof.Machine
end

