-- ==== Sys2Proof/Machine/Correlator.lean ====
section
/-!
DEFINITION. The ACK Correlator (43_correlator.md): SEND_ACKED, arming, capture, poll and the two resolutions.
-/

namespace Sys2Proof.Machine

/-- `ACK_POLLS = ACK_TIMEOUT_MS / ACK_POLL_MS` (00_scope.md R10). -/
def ackPolls (c : Config) : Nat := c.ackTimeoutMs / c.ackPollMs

/-- The key the correlator listens on: marker ACK, the sent identifier (R343). -/
def ackKey (ident : Word) : Key := { marker := markerAck, identifier := ident }

/-- SEND_ACKED (R340) up to its `await write completion`: BUSY, arguments, link, in this order (R341). -/
def execSendAcked (tag node kind : Byte) (ident : Word) (len pcount : Byte) (payload : List Byte) (s : State) : Result :=
  if corrBusy s then .next (raise opcSendAcked tag .busy s)
  else
    match encodeFrame s.cfg node kind ident len pcount payload with
    | none => .next (raise opcSendAcked tag .argError s)
    | some F =>
      if linkUp s then
        issueWrite
          { storeFrame F s with
            corr := .writing
              { tag := tag, identifier := ident, gen := 0, pollsLeft := ackPolls s.cfg, captured := none } }
      else .next (raise opcSendAcked tag .writeFailed (storeFrame F s))

/-- `arm()` (R343), one atomic step; the command port is released and the response is deferred. -/
def arm (c : Correlation) (s : State) : State :=
  { s with
    armGen := s.armGen + 1
    subs := SubTable.register s.subs (ackKey c.identifier) { lid := .int s.armGen, mode := .sync }
    corr := .armed { c with gen := s.armGen, pollsLeft := ackPolls s.cfg, captured := none }
    cmdState := .idle }

/-- SEND_ACKED after its write completed with `w` bytes: arming, or WRITE_FAILED with nothing armed (R340, R349). -/
def finishSendAcked (tag : Byte) (w : Fin 26) (s : State) : State :=
  match s.corr with
  | .writing c =>
    if w.val = frameLen then arm c { s with outPort := .idle }
    else raise opcSendAcked tag .writeFailed { s with outPort := .idle, corr := .idle }
  | .idle => s
  | .armed _ => s

/-- Capture: the delivery of `f` to the internal listener of arming `g` (R344). -/
def capture (g : Word) (f : DecodedFrame) (s : State) : State :=
  match s.corr with
  | .armed c =>
    if c.gen = g ∧ c.captured = none ∧ f.marker = markerAck ∧ f.identifier = c.identifier then
      { s with corr := .armed { c with captured := some f.tick } }
    else s
  | .idle => s
  | .writing _ => s

/-- What both resolutions do: remove the internal entry and the correlation, and return the deferred response (R346, R347). -/
def resolve (c : Correlation) (st : Status) (data : List Byte) (s : State) : State :=
  answer opcSendAcked c.tag st data
    { s with corr := .idle, subs := SubTable.unregister s.subs (ackKey c.identifier) (.int c.gen) }

/-- The poll on one strobe of `ms_tick` (R345): a capture wins over the deadline. With no strobe left it answers NO_ACK (DESIGN CHOICE,
assumption log 19). -/
def poll (s : State) : State :=
  match s.corr with
  | .armed c =>
    match c.captured with
    | some t => resolve c .ok (bytesLe32 t) s
    | none =>
      if c.pollsLeft - 1 = 0 then resolve c .noAck [] s
      else { s with corr := .armed { c with pollsLeft := c.pollsLeft - 1 } }
  | .idle => s
  | .writing _ => s

end Sys2Proof.Machine
end

