-- ==== Sys2Proof/Machine/Frames.lean ====
section
/-!
DEFINITION. The meanings of the two wire frames: what the deframe step does with a 25-byte chunk that carries one of the two
markers (41_transport.md R266, 40_codec.md R220, R230).
-/

namespace Sys2Proof.Machine

/-- A received chunk: a valid frame is appended to `batch`, an invalid one is dropped silently (R266, R230). -/
def receiveChunk (B : List Byte) (s : State) : State :=
  match decodeBytes s.cfg B with
  | .ok f => { s with batch := s.batch ++ [f] }
  | .error _ => s

/-- DATA_FRAME (R120, R220, R266; DESIGN CHOICE, assumption log 17). -/
def execDataFrame (tick : Word) (node kind : Byte) (ident : Word) (len : Byte) (payload : List Byte) (checksum : Word)
    (s : State) : Result :=
  .next (receiveChunk (frameBytes markerData tick node kind ident len payload checksum) s)

/-- ACK_FRAME (R120, R220, R266; DESIGN CHOICE, assumption log 17). -/
def execAckFrame (tick : Word) (node kind : Byte) (ident : Word) (len : Byte) (payload : List Byte) (checksum : Word)
    (s : State) : Result :=
  .next (receiveChunk (frameBytes markerAck tick node kind ident len payload checksum) s)

end Sys2Proof.Machine
end

