-- ==== Sys2Proof/Machine/Subscription.lean ====
section
/-!
DEFINITION. The table commands of the Subscription Router/Dispatcher (42_dispatcher.md R300-R306).
-/

namespace Sys2Proof.Machine

/-- SUBSCRIBE (R300): reserved bits, duplicate (R302), capacity (R304), then the append; one atomic step (20_memory.md R94). -/
def execSubscribe (tag : Byte) (ident : Word) (marker lid : Half) (mode : Byte) (s : State) : Result :=
  let k : Key := { marker := marker, identifier := ident }
  if !(lidFits s.cfg lid && modeFits mode) then .next (raise opcSubscribe tag .argError s)
  else if (SubTable.listeners s.subs k).any (fun x => decide (x.lid = .ext lid)) then .next (respond opcSubscribe tag .ok [] s)
  else if (SubTable.find s.subs k).isNone && limitReached s.cfg.maxKeys (extKeys s.subs) then
    .next (raise opcSubscribe tag .full s)
  else if (SubTable.find s.subs k).isSome && limitReached s.cfg.maxListeners (extCount (SubTable.listeners s.subs k)) then
    .next (raise opcSubscribe tag .full s)
  else
    .next (respond opcSubscribe tag .ok []
      { s with subs := SubTable.register s.subs k { lid := .ext lid, mode := listenModeOf mode } })

/-- UNSUBSCRIBE (R305): reserved LID bits, then the removal; MODE is ignored. -/
def execUnsubscribe (tag : Byte) (ident : Word) (marker lid : Half) (_mode : Byte) (s : State) : Result :=
  if lidFits s.cfg lid then
    .next (respond opcUnsubscribe tag .ok []
      { s with subs := SubTable.unregister s.subs { marker := marker, identifier := ident } (.ext lid) })
  else .next (raise opcUnsubscribe tag .argError s)

end Sys2Proof.Machine
end

