-- ==== Sys2Proof/Machine/Transport.lean ====
section
/-!
DEFINITION. The lifecycle commands and the write primitive of the Deframer/Transport Unit (41_transport.md R260-R264, R274). Each
meaning runs its command up to its first `await`; the part after the `await` stands in Machine/Engine.lean.
-/

namespace Sys2Proof.Machine

/-- CONNECT (R260): ask the USB layer; `finishConnect` goes on with its answer. -/
def execConnect (_tag : Byte) (s : State) : Result :=
  .next (emit (.usbOpen Config.usbVid Config.usbPid usbInterface) s)

/-- CONNECT after the answer of `usb_open` (R260). -/
def finishConnect (tag : Byte) (ok : Bool) (s : State) : State :=
  if ok then respond opcConnect tag .ok [] { s with connected := true } else raise opcConnect tag .noDevice s

/-- `connected <- 0; respond(OK)`: how STOP and DISCONNECT end (R261, R263). -/
def disconnectNow (opc tag : Byte) (s : State) : State := respond opc tag .ok [] { s with connected := false }

/-- The STOP procedure up to its `await (running == 0)` (R263). -/
def stopProcedure (opc tag : Byte) (s : State) : State :=
  if s.running then { s with stopReq := true } else disconnectNow opc tag s

/-- DISCONNECT (R261): the STOP procedure when running, else only the disconnection. -/
def execDisconnect (tag : Byte) (s : State) : Result := .next (stopProcedure opcDisconnect tag s)

/-- START (R262). -/
def execStart (tag : Byte) (s : State) : Result :=
  if linkUp s then
    if s.running then .next (respond opcStart tag .ok [] s)
    else .next (respond opcStart tag .ok [] { s with running := true, stopReq := false, rdState := .idle })
  else .next (raise opcStart tag .notConnected s)

/-- STOP (R263). -/
def execStop (tag : Byte) (s : State) : Result := .next (stopProcedure opcStop tag s)

/-- STATUS (R264). -/
def execStatus (tag : Byte) (s : State) : Result := .next (respond opcStatus tag .ok [statusView s] s)

/-- SEND (R274) up to its `await write completion`. -/
def execSend (tag node kind : Byte) (ident : Word) (len pcount : Byte) (payload : List Byte) (s : State) : Result :=
  match encodeFrame s.cfg node kind ident len pcount payload with
  | none => .next (raise opcSend tag .argError s)
  | some F =>
    if linkUp s then issueWrite (storeFrame F s) else .next (raise opcSend tag .writeFailed (storeFrame F s))

/-- SEND after its write completed with `w` bytes (R274). -/
def finishSend (tag : Byte) (w : Fin 26) (s : State) : State :=
  if w.val = frameLen then respond opcSend tag .ok [] { s with outPort := .idle }
  else raise opcSend tag .writeFailed { s with outPort := .idle }

end Sys2Proof.Machine
end

