-- ==== Sys2Proof/Machine/Dispatch.lean ====
section
/-!
DEFINITION. The meaning of every instruction: one arm per constructor of Instr, each one direct call.
-/

namespace Sys2Proof.Machine

def exec (i : Instr) (s : State) : Host.Outcome State Fault Refusal :=
  match i with
  | .connect tag => Sys2Proof.Machine.execConnect tag s
  | .disconnect tag => Sys2Proof.Machine.execDisconnect tag s
  | .start tag => Sys2Proof.Machine.execStart tag s
  | .stop tag => Sys2Proof.Machine.execStop tag s
  | .status tag => Sys2Proof.Machine.execStatus tag s
  | .encode tag node kind ident len pcount payload => Sys2Proof.Machine.execEncode tag node kind ident len pcount payload s
  | .decode tag bytes => Sys2Proof.Machine.execDecode tag bytes s
  | .checksum tag data => Sys2Proof.Machine.execChecksum tag data s
  | .send tag node kind ident len pcount payload => Sys2Proof.Machine.execSend tag node kind ident len pcount payload s
  | .sendAcked tag node kind ident len pcount payload => Sys2Proof.Machine.execSendAcked tag node kind ident len pcount payload s
  | .subscribe tag ident marker lid mode => Sys2Proof.Machine.execSubscribe tag ident marker lid mode s
  | .unsubscribe tag ident marker lid mode => Sys2Proof.Machine.execUnsubscribe tag ident marker lid mode s
  | .dataFrame tick node kind ident len payload checksum => Sys2Proof.Machine.execDataFrame tick node kind ident len payload checksum s
  | .ackFrame tick node kind ident len payload checksum => Sys2Proof.Machine.execAckFrame tick node kind ident len payload checksum s

end Sys2Proof.Machine
end

