-- ==== Sys2Proof/Machine/Engine.lean ====
section
/-!
DEFINITION. The steps of the engines and of the environment (00_scope.md R9): accepting and resuming commands, the read engine
with the deframe step (41_transport.md R265-R270), the dispatch engine (42_dispatcher.md R310-R315), and `perform`, which runs one
move. An inward event no rule waits for is ignored (60_exceptions.md R408), and so is a move whose engine has no enabled step.
-/

namespace Sys2Proof.Machine

/-! ### The command engine (10_state.md R43) -/

/-- A descriptor on the command port: taken only in IDLE (R43); copied whole and executed (R130), or answered BAD_COMMAND with no
other effect (R134, R135). Presented while a command executes, it is not taken (DEDUCED, assumption log 8). -/
def acceptDescriptor (d : List Byte) (s : State) : Result :=
  match s.cmdState with
  | .exec _ => .next s
  | .idle =>
    match decodeDescriptor d with
    | .ok i => exec i { s with cmdState := .exec d }
    | .error _ => .next (raise (byteAt d 0) (byteAt d 1) .badCommand s)

/-- The tag of the CONNECT that awaits the answer of `usb_open`, if the command in progress is one (R260). -/
def awaitingOpen (cs : CmdState) : Option Byte :=
  match cs with
  | .idle => none
  | .exec d =>
    match decodeDescriptor d with
    | .ok (.connect tag) => some tag
    | _ => none

/-- The answer of `usb_open` (R260): OK only with `dev_present = 1`, FAIL at any time; an answer that was not asked for, or that
the USB layer cannot give, changes nothing (DEDUCED, assumption log 7, 11). -/
def takeOpenAnswer (ok : Bool) (s : State) : State :=
  match awaitingOpen s.cmdState with
  | none => s
  | some tag => if ok && !s.devPresent then s else finishConnect tag ok s

/-- The OUT write completes, once per issued write (R275); the command goes on in a step of its own (DEDUCED, assumption log 6). -/
def takeWriteDone (w : Fin 26) (s : State) : State :=
  match s.outPort with
  | .busy => { s with outPort := .done w }
  | .idle => s
  | .done _ => s

/-- Go on with `f` once the OUT write has completed (R274, R340). -/
def afterWrite (f : Fin 26 → State → State) (s : State) : State :=
  match s.outPort with
  | .done w => f w s
  | .idle => s
  | .busy => s

/-- The rest of a command after its `await` (DEDUCED, assumption log 24, 25); the commands without one have no rest. CONNECT goes on
in `takeOpenAnswer`. -/
def resumeInstr (i : Instr) (s : State) : State :=
  match i with
  | .disconnect tag => if s.running then s else disconnectNow opcDisconnect tag s
  | .stop tag => if s.running then s else disconnectNow opcStop tag s
  | .send tag _ _ _ _ _ _ => afterWrite (finishSend tag) s
  | .sendAcked tag _ _ _ _ _ _ => afterWrite (finishSendAcked tag) s
  | .connect _ => s
  | .start _ => s
  | .status _ => s
  | .encode _ _ _ _ _ _ _ => s
  | .decode _ _ => s
  | .checksum _ _ => s
  | .subscribe _ _ _ _ _ => s
  | .unsubscribe _ _ _ _ _ => s
  | .dataFrame _ _ _ _ _ _ _ => s
  | .ackFrame _ _ _ _ _ _ _ => s

/-- The command engine goes on with the command in progress. -/
def resumeCommand (s : State) : State :=
  match s.cmdState with
  | .idle => s
  | .exec d =>
    match decodeDescriptor d with
    | .ok i => resumeInstr i s
    | .error _ => s

/-! ### The read engine -/

/-- Issue step (R265). -/
def issueRead (s : State) : State :=
  if s.running = true ∧ s.stopReq = false ∧ s.rdState = .idle then
    emit (.usbRead rxBufBytes s.cfg.rxReadTimeoutMs) { s with rdState := .readPending }
  else s

/-- One chunk of a transfer (R266): a chunk that spells a wire frame runs that frame's meaning, any other is dropped (R230). -/
def receive (chunk : List Byte) (s : State) : Result :=
  match decodeFrame chunk with
  | .ok i => exec i s
  | .error _ => .next s

/-- The chunks with these numbers, in order (R266). -/
def deframeChunks : List Nat → State → Result
  | [], s => .next s
  | c :: cs, s =>
    match memRead s.rxBuf s.rxLen (frameLen * c) (min frameLen (s.rxLen - frameLen * c)) with
    | none => .fault .bufferRange
    | some chunk => Result.andThen (receive chunk s) (deframeChunks cs)

/-- `ceil(n / FRAME_LEN)` (R266). -/
def chunkCount (n : Nat) : Nat := (n + (frameLen - 1)) / frameLen

/-- The state in which a transfer's chunks are decoded: the bytes in RXB, an empty batch (R266). -/
def loadTransfer (T : List Byte) (s : State) : State :=
  { s with rxBuf := Memory.writeBytes s.rxBuf 0 T, rxLen := T.length, batch := [] }

/-- The last line of R266: the next read at once, or the dispatch of the batch. -/
def endDeframe (s : State) : State := { s with rdState := if s.batch = [] then .idle else .dispatching }

/-- Deframe step (R266). -/
def deframe (T : List Byte) (s : State) : Result :=
  Result.andThen (deframeChunks (List.range (chunkCount T.length)) (loadTransfer T s)) (fun s' => .next (endDeframe s'))

/-- Timeout and error step (R267, R268). -/
def abandonRead (s : State) : State := if s.rdState = .readPending then { s with rdState := .idle } else s

/-- The outstanding read completes with the bytes `T`. No bytes are a timeout (R267); with `stop_req` set the transfer is discarded
unread (R266, R270; DEDUCED, assumption log 18); more than 500 bytes cannot occur (R273, assumption log 11). -/
def takeTransfer (T : List Byte) (s : State) : Result :=
  if T = [] then .next (abandonRead s)
  else if s.rdState = .readPending ∧ s.stopReq = false ∧ T.length ≤ rxBufBytes then deframe T s
  else .next s

/-- End of the batch (R269). -/
def endBatch (s : State) : State :=
  if s.rdState = .dispatching ∧ s.batch = [] ∧ s.dispState = .idle then { s with rdState := .idle } else s

/-- The end of the loop (R270). -/
def endLoop (s : State) : State := { s with running := false, stopReq := false, rdState := .idle }

/-- The first synchronous entry of a list, with its index, the list's head having index `i`. -/
def firstSync : List Entry → Nat → Option (Nat × Entry)
  | [], _ => none
  | e :: l, i =>
    match e.mode with
    | .sync => some (i, e)
    | .async => firstSync l (i + 1)

/-- The smallest `j ≥ k` with `L[j].mode = SYNC`, and `L[j]` (R313). -/
def nextSync (l : List Entry) (k : Nat) : Option (Nat × Entry) := firstSync (l.drop k) k

/-- Stop step (R270), row by row; in a synchronous phase it waits for the phase's end. -/
def stopLoop (s : State) : State :=
  if s.stopReq then
    match s.rdState with
    | .idle => endLoop s
    | .readPending => emit .usbCancel (endLoop s)
    | .dispatching =>
      match s.dispState with
      | .idle => endLoop { s with batch := [] }
      | .async _ _ => endLoop { s with dispState := .idle, batch := [] }
      | .sync _ l k waiting =>
        if waiting = false ∧ nextSync l k = none then endLoop { s with dispState := .idle, batch := [] } else s
  else s

/-! ### The dispatch engine -/

/-- `key(f)` (R311). -/
def frameKey (f : DecodedFrame) : Key := { marker := f.marker, identifier := f.identifier }

/-- Dispatch start and lookup (R310, R311, R312). -/
def startDispatch (s : State) : State :=
  if s.rdState = .dispatching ∧ s.stopReq = false then
    match s.batch with
    | [] => s
    | f :: rest =>
      match SubTable.listeners s.subs (frameKey f) with
      | [] => { s with batch := rest }
      | e :: l => { s with batch := rest, dispState := .sync f (e :: l) 0 false }
  else s

/-- The delivery to the synchronous entry at index `j` (R313): an external listener's completion is awaited, the internal capture
completes in the same step (R344). -/
def deliverSync (f : DecodedFrame) (l : List Entry) (k j : Nat) (h : Handle) (s : State) : State :=
  match h with
  | .ext n => emit (.deliver (.ext n) f) { s with dispState := .sync f l k true }
  | .int g => capture g f { s with dispState := .sync f l (j + 1) false }

/-- `W`: the handles of the asynchronous entries (R314), in the order of the list (DESIGN CHOICE, assumption log 12). -/
def asyncHandles (l : List Entry) : List Handle := (l.filter (fun e => decide (e.mode = .async))).map Entry.lid

/-- `ASYNC(f, W)`, or the end of the dispatch when `W` is empty (R314, R315). -/
def awaitAll (f : DecodedFrame) (w : List Handle) (s : State) : State :=
  { s with dispState := if w = [] then .idle else .async f w }

/-- Asynchronous phase (R314): every delivery in one step. -/
def deliverAsync (f : DecodedFrame) (l : List Entry) (s : State) : State :=
  emitAll ((asyncHandles l).map (fun h => .deliver h f)) (awaitAll f (asyncHandles l) s)

/-- The next step of the dispatch engine. With `stop_req` set no frame is started and no asynchronous delivery is made (R310,
R270). -/
def dispatchStep (s : State) : State :=
  match s.dispState with
  | .idle => startDispatch s
  | .sync f l k false =>
    match nextSync l k with
    | some (j, e) => deliverSync f l k j e.lid s
    | none => if s.stopReq then s else deliverAsync f l s
  | .sync _ _ _ true => s
  | .async _ _ => s

/-- A listener's completion (R313, R315); one that no delivery waits for is ignored. -/
def takeListenerDone (lid : Half) (s : State) : State :=
  match s.dispState with
  | .idle => s
  | .sync _ _ _ false => s
  | .sync f l k true =>
    match nextSync l k with
    | none => s
    | some (j, e) => if e.lid = .ext lid then { s with dispState := .sync f l (j + 1) false } else s
  | .async f w =>
    if Handle.ext lid ∈ w then awaitAll f (w.filter (fun h => decide (h ≠ .ext lid))) s else s

/-! ### Reset and the moves -/

/-- Assertion of `rst` (R450, R451): every state element at its reset value, every transaction abandoned; the configuration and the
inputs are not state, and what has already gone out stays (assumption log 21), so that the completion of an abandoned transaction is
still known from those of later ones (R451). -/
def resetElements (s : State) : State :=
  { State.reset with cfg := s.cfg, devPresent := s.devPresent, out := s.out, agenda := s.agenda, clock := s.clock }

/-- One step of one agent (R9). A completion of a transaction that is not the latest of its kind is ignored (R408, R451). -/
def perform (m : Move) (s : State) : Result :=
  match m with
  | .descriptor d => acceptDescriptor d s
  | .usbOpened n ok => ofLatest n (opensIssued s.out) (fun s => .next (takeOpenAnswer ok s)) s
  | .transfer n T => ofLatest n (readsIssued s.out) (takeTransfer T) s
  | .readTimeout n => ofLatest n (readsIssued s.out) (fun s => .next (abandonRead s)) s
  | .readError n => ofLatest n (readsIssued s.out) (fun s => .next (abandonRead s)) s
  | .writeDone n w => ofLatest n (writesIssued s.out) (fun s => .next (takeWriteDone w s)) s
  | .listenerDone lid n => ofLatest n (deliveriesTo lid s.out) (fun s => .next (takeListenerDone lid s)) s
  | .strobe => .next (poll s)
  | .devChange b => .next { s with devPresent := b }
  | .assertReset => .next (resetElements s)
  | .issueRead => .next (issueRead s)
  | .stopLoop => .next (stopLoop s)
  | .endBatch => .next (endBatch s)
  | .dispatch => .next (dispatchStep s)
  | .resume => .next (resumeCommand s)

/-- The move that comes next, and the state without it: the head of the agenda, or a move drawn from the free value. -/
def takeMove (s : State) : Move × State :=
  match s.agenda with
  | m :: rest => (m, { s with agenda := rest })
  | [] => (Config.nextMove s.clock, { s with clock := s.clock + 1 })

/-- The state in which the next step runs the instruction with these bytes: a descriptor is presented to an idle command port, a
wire frame completes the outstanding bulk read, the latest one issued (assumption log 2, 23). -/
def presentBytes (wire : Bool) (B : List Byte) (s : State) : State :=
  if wire then
    { s with
      running := true, stopReq := false, rdState := .readPending
      agenda := .transfer (readsIssued s.out) B :: s.agenda }
  else { s with cmdState := .idle, agenda := .descriptor B :: s.agenda }

end Sys2Proof.Machine
end

