-- ==== Sys2Proof/Machine/Step.lean ====
section
/-!
DEFINITION. One step of the machine: one move of one agent (00_scope.md R9, 60_exceptions.md R405). The SCFE fetches nothing
(10_state.md R41): an instruction comes in as a descriptor on the command port or as a chunk of a bulk IN transfer.
-/

namespace Sys2Proof.Machine

/-- Take the next move and perform it. -/
def step (s : State) : Host.Outcome State Fault Refusal := perform (takeMove s).1 (takeMove s).2

/-- `s` with the instruction of a table word where the next step takes it from. -/
def State.withFetchWord (s : State) (nbits w : Nat) : State :=
  presentBytes (tableWordOnWire nbits w) (tableWordBytes nbits w) s

end Sys2Proof.Machine
end

