-- ==== Sys2Proof/Safety.lean ====
section
/-!
DEFINITION. What counts as a safe run: a step that ends in a next state, and the invariants of the reachable states, each from the
rules of 10_state.md and 20_memory.md it is named after.
-/

namespace Sys2Proof.Safety

open Sys2Proof Sys2Proof.Machine

/-- The step neither faults nor refuses. -/
def Goes (r : Result) : Prop := ∃ t, r = .next t

/-- An entry of the internal listener is in the table only while its correlation is armed, under that correlation's key, and is
synchronous (10_state.md R52 I3, 43_correlator.md R343). -/
def InternalEntryOk (s : State) (k : Key) (e : Entry) : Prop :=
  match e.lid with
  | .ext _ => True
  | .int g => e.mode = .sync ∧ ∃ c, s.corr = .armed c ∧ c.gen = g ∧ k = ackKey c.identifier

/-- The subscription table (R52): keys in canonical order, every list non-empty (I1) and with distinct handles (I2), internal
entries only as I3 allows. -/
def TableInv (s : State) : Prop :=
  tableOrdered Key.code s.subs = true ∧
  ∀ k l, (k, l) ∈ s.subs → l ≠ [] ∧ (l.map Entry.lid).Nodup ∧ ∀ e ∈ l, InternalEntryOk s k e

/-- The buffers (R47, R48, 20_memory.md R84): canonical, inside their sizes, a transfer of at most 500 bytes, a batch of at most 20
frames. -/
def BufferInv (s : State) : Prop :=
  Memory.wf s.rxBuf = true ∧ Memory.wf s.txBuf = true ∧
  (∀ a, rxBufBytes ≤ a → Memory.read s.rxBuf a = none) ∧ (∀ a, frameLen ≤ a → Memory.read s.txBuf a = none) ∧
  (∀ a, a < s.rxLen → Memory.read s.rxBuf a ≠ none) ∧
  s.rxLen ≤ rxBufBytes ∧ s.batch.length ≤ rxBatchFrames

/-- A frame a listener may see (40_codec.md R222): one of the two markers, a length of at most 8, an 8-byte payload field. -/
def FrameOk (f : DecodedFrame) : Prop :=
  (f.marker = markerData ∨ f.marker = markerAck) ∧ f.length ≤ maxDlc ∧ f.payloadRaw.length = payloadField

/-- The frame being dispatched, if any (R53). -/
def dispatchedFrame (d : DispState) : Option DecodedFrame :=
  match d with
  | .idle => none
  | .sync f _ _ _ => some f
  | .async f _ => some f

/-- The frame's checksum is that of its 21 bytes on the wire (40_codec.md R220). The length byte there is the frame's length, or,
under CLAMP, one above 8 that became 8 (R224). -/
def ChecksumOk (c : Config) (f : DecodedFrame) : Prop :=
  ∃ len : Byte,
    (len ≤ maxDlc ∧ f.length = len ∨ maxDlc < len ∧ f.length = maxDlc ∧ c.dlcPolicy = .clamp) ∧
    f.checksum = crc32Ssb c.crcTable
      (bytesLe16 f.marker ++ bytesLe32 f.tick ++ [f.node, f.kind] ++ bytesLe32 f.identifier ++ [len] ++ f.payloadRaw)

/-- A valid frame (R220, R222): the shape and the checksum. -/
def FrameValid (c : Config) (f : DecodedFrame) : Prop := FrameOk f ∧ ChecksumOk c f

/-- Only valid frames are batched or dispatched (40_codec.md R230). -/
def FrameInv (s : State) : Prop :=
  (∀ f ∈ s.batch, FrameValid s.cfg f) ∧ ∀ f, dispatchedFrame s.dispState = some f → FrameValid s.cfg f

/-- The command in progress is one that waits, and what it waits for is outstanding (10_state.md R43): CONNECT; STOP or DISCONNECT
with the loop asked to end; SEND with its write; SEND_ACKED with its write and its correlation WRITING. -/
def CommandWaits (s : State) (i : Instr) : Prop :=
  match i with
  | .connect _ => s.outPort = .idle ∧ s.stopReq = false ∧ ∀ c, s.corr ≠ .writing c
  | .disconnect _ => s.outPort = .idle ∧ (s.running = true → s.stopReq = true) ∧ ∀ c, s.corr ≠ .writing c
  | .stop _ => s.outPort = .idle ∧ (s.running = true → s.stopReq = true) ∧ ∀ c, s.corr ≠ .writing c
  | .send _ _ _ _ _ _ _ => s.outPort ≠ .idle ∧ s.stopReq = false ∧ ∀ c, s.corr ≠ .writing c
  | .sendAcked tag _ _ ident _ _ _ =>
    s.outPort ≠ .idle ∧ s.stopReq = false ∧ ∃ c, s.corr = .writing c ∧ c.tag = tag ∧ c.identifier = ident
  | .start _ => False
  | .status _ => False
  | .encode _ _ _ _ _ _ _ => False
  | .decode _ _ => False
  | .checksum _ _ => False
  | .subscribe _ _ _ _ _ => False
  | .unsubscribe _ _ _ _ _ => False
  | .dataFrame _ _ _ _ _ _ _ => False
  | .ackFrame _ _ _ _ _ _ _ => False

/-- The command engine (R43): no command, and then no write, stop request or unarmed correlation; or a descriptor that decodes to a
command that waits. -/
def CommandInv (s : State) : Prop :=
  match s.cmdState with
  | .idle => s.outPort = .idle ∧ s.stopReq = false ∧ ∀ c, s.corr ≠ .writing c
  | .exec d => ∃ i, decodeDescriptor d = .ok i ∧ CommandWaits s i

/-- The read loop (R45, R46, 41_transport.md R269): a loop that is not running reads nothing and has no stop request; frames wait
and are dispatched only in DISPATCHING. -/
def LoopInv (s : State) : Prop :=
  (s.running = false → s.rdState = .idle ∧ s.stopReq = false) ∧
  (s.rdState ≠ .dispatching → s.batch = [] ∧ s.dispState = .idle)

/-- The dispatch engine waits only for deliveries it has made: the awaited synchronous entry exists, is external and has been
delivered the frame (42_dispatcher.md R313); an asynchronous wait has something to wait for, and each handle it waits for has been
delivered the frame (R314, R315). -/
def DispatchInv (s : State) : Prop :=
  match s.dispState with
  | .idle => True
  | .sync _ _ _ false => True
  | .sync f l k true =>
    ∃ j lid, nextSync l k = some (j, { lid := .ext lid, mode := .sync }) ∧ .deliver (.ext lid) f ∈ s.out
  | .async f w => w ≠ [] ∧ ∀ h ∈ w, .deliver h f ∈ s.out

/-- An armed correlation (R55) still has its internal entry in the table (43_correlator.md R353) and at most ACK_POLLS strobes
left. -/
def CorrelationInv (s : State) : Prop :=
  ∀ c, s.corr = .armed c →
    c.pollsLeft ≤ ackPolls s.cfg ∧
    ({ lid := .int c.gen, mode := .sync } : Entry) ∈ SubTable.listeners s.subs (ackKey c.identifier)

/-- The dispatch engine awaits the completion of external listener `lid` (R313, R315). -/
def AwaitsListener (d : DispState) (lid : Half) : Prop :=
  match d with
  | .idle => False
  | .sync _ _ _ false => False
  | .sync _ l k true => ∃ j e, nextSync l k = some (j, e) ∧ e.lid = .ext lid
  | .async _ w => .ext lid ∈ w

/-- Every transaction that is outstanding was issued after the log was `past` (70_reset_and_hazards.md R451): the log has only grown
since, and a read, a write, a `usb_open` or a delivery that is awaited is a later one of its kind. -/
def OutstandingSince (past : List OutEvent) (s : State) : Prop :=
  past <+: s.out ∧
  (s.rdState = .readPending → readsIssued past < readsIssued s.out) ∧
  (s.outPort = .busy → writesIssued past < writesIssued s.out) ∧
  (∀ tag, awaitingOpen s.cmdState = some tag → opensIssued past < opensIssued s.out) ∧
  ∀ lid, AwaitsListener s.dispState lid → deliveriesTo lid past < deliveriesTo lid s.out

/-- All of them. -/
def Inv (s : State) : Prop :=
  TableInv s ∧ BufferInv s ∧ FrameInv s ∧ CommandInv s ∧ LoopInv s ∧ DispatchInv s ∧ CorrelationInv s

end Sys2Proof.Safety
end

