-- ==== Sys2Proof/Certificates/Slice0/Obligations.lean ====
section
/-!
DEFINITION. What is claimed of the SCFE, rule by rule of spec/. A statement about every state holds in states no run reaches; where
it needs an invariant of Sys2Proof/Safety.lean it says so as a premise, and that every step keeps the invariant is claimed too.
A premise that a move stands at the head of the agenda only says whose step it is (R9): the agenda is the model's own (assumption
log 1), and no statement rests on an order of moves but the one on the count of strobes, which is about exactly that. Where the move
is the completion of the outstanding transaction, a premise says so by the transaction's number, the latest of its kind (assumption
log 23).
-/

namespace Sys2Proof.Claims

/-- The opcode map of 30_encoding.md R131: every opcode with its descriptor's length, DECODE (3 + BLEN) apart. -/
def descriptorSizes : List (Byte × Nat) :=
  [(0x01, 2), (0x02, 2), (0x03, 2), (0x04, 2), (0x05, 2), (0x10, 18), (0x12, 23), (0x20, 18), (0x21, 18), (0x30, 11),
    (0x31, 11)]

/-- A descriptor that spells a command: a known opcode and that opcode's length (R131, R134, R135). -/
def legalDescriptor (d : List Byte) : Bool :=
  if byteAt d 0 = 0x11 then decide (3 ≤ d.length ∧ d.length = 3 + (byteAt d 2).toNat)
  else descriptorSizes.any fun p => decide (p.1 = byteAt d 0 ∧ p.2 = d.length)

/-- The frame ENCODE builds, written out from 40_codec.md R210, R212, R213. -/
def encodedFrame (c : Config) (node kind : Byte) (ident : Word) (len pcount : Byte) (payload : List Byte) : List Byte :=
  let head := [0xFF, 0xFF] ++ bytesLe32 c.txTick ++ [node, kind] ++ bytesLe32 ident ++ [len] ++
    (payload.take pcount.toNat ++ List.replicate (8 - pcount.toNat) 0)
  head ++ bytesLe32 (Machine.crc32Ssb c.crcTable head)

/-- The checks of R211 pass. -/
def argumentsOk (len pcount : Byte) : Prop := len ≤ 8#8 ∧ pcount ≤ 8#8 ∧ pcount ≤ len

/-- The hexadecimal digits a text may hold, 0-9 and A-F, in ASCII (00_scope.md R16). -/
def hexAlphabet : List Byte :=
  [0x30, 0x31, 0x32, 0x33, 0x34, 0x35, 0x36, 0x37, 0x38, 0x39, 0x41, 0x42, 0x43, 0x44, 0x45, 0x46]

/-- The entry is a listener's and not the correlator's own (42_dispatcher.md R300, R304). -/
def external (e : Machine.Entry) : Bool :=
  match e.lid with
  | .ext _ => true
  | .int _ => false

/-- The response an instruction gives when it ends at once. -/
def responded (s : Machine.State) (bytes : List Byte) : Machine.State :=
  { s with cmdState := .idle, out := s.out ++ [.response bytes] }

end Sys2Proof.Claims

open Sys2Proof Sys2Proof.Machine Sys2Proof.Safety Sys2Proof.Claims

/-! ### Encodings -/

/-- 30_encoding.md R120, R131, R132: words written out from the tables decode to the instructions they stand for. -/
def Obligations.SampleWordsDecode : Prop :=
  decodeDescriptor [0x01, 0x07] = .ok (.connect 0x07) ∧
  decodeDescriptor [0x10, 0x09, 0x03, 0x01, 0xE5, 0x50, 0xFF, 0x18, 0x03, 0x03, 1, 2, 3, 0, 0, 0, 0, 0] =
    .ok (.encode 0x09 0x03 0x01 0x18FF50E5 0x03 0x03 [1, 2, 3, 0, 0, 0, 0, 0]) ∧
  decodeDescriptor [0x30, 0x02, 0x07, 0x02, 0x00, 0x00, 0xAA, 0xAA, 0x03, 0x00, 0x01] =
    .ok (.subscribe 0x02 0x207 0xAAAA 0x0003 0x01) ∧
  decodeDescriptor [0x11, 0x01, 0x02, 0xAA, 0xBB] = .ok (.decode 0x01 [0xAA, 0xBB]) ∧
  decodeFrame ([0xAA, 0xAA, 0x34, 0x12, 0, 0, 1, 0, 7, 2, 0, 0, 0] ++ List.replicate 8 0 ++ [0xEE, 0x7E, 0xC0, 0x90]) =
    .ok (.ackFrame 0x1234 1 0 0x207 0 (List.replicate 8 0) 0x90C07EEE)

/-- 30_encoding.md R120-R122, R131, R132: decoding the encoding of a well-formed instruction, on the port it arrives on, gives it
back. -/
def Obligations.DecodeOfEncode : Prop :=
  ∀ i : Instr, i.wellFormed = true → decodeAs i.onWire (encode i) = .ok i

/-- The other direction: what decodes is well-formed, belongs to its port, and encodes to the same bytes. -/
def Obligations.EncodeOfDecode : Prop :=
  ∀ (wire : Bool) (B : List Byte) (i : Instr), decodeAs wire B = .ok i →
    encode i = B ∧ i.wellFormed = true ∧ i.onWire = wire

/-- 30_encoding.md R131, R135, R138: a descriptor decodes exactly when its opcode is in the map and it has that opcode's length. -/
def Obligations.DescriptorDecodesIffLegal : Prop :=
  ∀ d : List Byte, (∃ i, decodeDescriptor d = .ok i) ↔ legalDescriptor d = true

/-- 30_encoding.md R134, R135: an empty descriptor, a reserved opcode or a wrong length is answered BAD_COMMAND, with OPC and TAG
echoed (0x00 where absent), and nothing else changes. -/
def Obligations.BadDescriptorAnswered : Prop :=
  ∀ (s : State) (d : List Byte) (rest : List Move),
    s.agenda = .descriptor d :: rest → s.cmdState = .idle → legalDescriptor d = false →
    step s = .next { s with agenda := rest, out := s.out ++ [.response [byteAt d 0, byteAt d 1, 0x09]] }

/-! ### The step -/

/-- 30_encoding.md R130, 10_state.md R43: a step that takes a descriptor in IDLE is `exec` of the instruction it decodes to, with
the descriptor copied whole into EXEC; a descriptor presented while another executes is not taken. -/
def Obligations.StepRunsDescriptor : Prop :=
  ∀ (s : State) (d : List Byte) (rest : List Move), s.agenda = .descriptor d :: rest →
    (∀ i, s.cmdState = .idle → decodeDescriptor d = .ok i →
      step s = exec i { s with agenda := rest, cmdState := .exec d }) ∧
    (∀ d', s.cmdState = .exec d' → step s = .next { s with agenda := rest })

/-- A step in which the outstanding read completes with a transfer of one frame is `exec` of that frame on the loaded buffer, then the
end of the deframe step. That a received frame is an instruction which `exec` runs is the model's own choice (DESIGN CHOICE, assumption
log 17): in 41_transport.md R266 the frame is one turn of the loop of the deframe step. -/
def Obligations.StepRunsFrame : Prop :=
  ∀ (s : State) (F : List Byte) (rest : List Move) (i : Instr),
    s.agenda = .transfer (readsIssued s.out) F :: rest → s.rdState = .readPending → s.stopReq = false → decodeFrame F = .ok i →
    step s = Result.andThen
      (exec i { s with agenda := rest, rxBuf := Memory.writeBytes s.rxBuf 0 F, rxLen := 25, batch := [] })
      (fun t => .next { t with rdState := if t.batch = [] then .idle else .dispatching })

/-- 60_exceptions.md R406, 10_state.md R42: nothing traps, and the configuration is a parameter. Every step of every state ends in a
next state with the same configuration. -/
def Obligations.StepAlwaysGoes : Prop :=
  ∀ s : State, Goes (step s) ∧ ∀ t, step s = .next t → t.cfg = s.cfg

/-! ### The codec -/

/-- 40_codec.md R203: the checksum starts at 0 and each byte updates it by the shift, the table entry and the exclusive-or. -/
def Obligations.ChecksumUpdateRule : Prop :=
  ∀ (T : Vector Word 256) (B : List Byte) (b : Byte),
    crc32Ssb T [] = 0 ∧
    crc32Ssb T (B ++ [b]) =
      ((crc32Ssb T B) <<< 8) ^^^ T[((crc32Ssb T B).extractLsb' 24 8 ^^^ b).toNat]'(BitVec.isLt _)

/-- 40_codec.md R205 (a), (b), (c): under both tables leading zero bytes change nothing, the checksum of inputs of equal length is
linear, and 21-byte inputs that differ only inside two adjacent bytes have different checksums. -/
def Obligations.ChecksumProperties : Prop :=
  ∀ T ∈ [tMsb, tRefl],
    T[0] = 0 ∧ crc32Ssb T (List.replicate 21 0) = 0 ∧
    (∀ (n : Nat) (B : List Byte), crc32Ssb T (List.replicate n 0 ++ B) = crc32Ssb T B) ∧
    (∀ i j : Byte, T[(i ^^^ j).toNat]'(BitVec.isLt _) = T[i.toNat]'i.isLt ^^^ T[j.toNat]'j.isLt) ∧
    (∀ A B : List Byte, A.length = B.length →
      crc32Ssb T (List.zipWith (· ^^^ ·) A B) = crc32Ssb T A ^^^ crc32Ssb T B) ∧
    (∀ (A B : List Byte) (i : Nat), A.length = 21 → B.length = 21 → A ≠ B →
      (∀ j, j ≠ i → j ≠ i + 1 → byteAt A j = byteAt B j) → crc32Ssb T A ≠ crc32Ssb T B)

/-- 40_codec.md R207: CHECKSUM answers OK with the checksum, low byte first, and writes nothing; 21 zero bytes give 0 under both
tables, and the rule's example. -/
def Obligations.ChecksumResult : Prop :=
  (∀ (s : State) (tag : Byte) (data : List Byte),
    exec (.checksum tag data) s =
      .next (responded s ([0x12, tag, 0x00] ++ bytesLe32 (crc32Ssb s.cfg.crcTable data)))) ∧
  crc32Ssb tMsb (List.replicate 21 0) = 0 ∧ crc32Ssb tRefl (List.replicate 21 0) = 0 ∧
  crc32Ssb tMsb ([0xFF, 0xFF, 0, 0, 0, 0, 1, 0, 7, 2, 0, 0, 8] ++ List.replicate 8 0) = 0x709F5E4F ∧
  bytesLe32 0x709F5E4F = [0x4F, 0x5E, 0x9F, 0x70]

/-- 40_codec.md R210-R213: ENCODE. A failing check answers ARG_ERROR and writes nothing; otherwise the 25-byte frame goes to `tx_buf`
and into the response. -/
def Obligations.EncodeResult : Prop :=
  ∀ (s : State) (tag node kind : Byte) (ident : Word) (len pcount : Byte) (payload : List Byte), payload.length = 8 →
    (¬ argumentsOk len pcount →
      exec (.encode tag node kind ident len pcount payload) s = .next (responded s [0x10, tag, 0x02])) ∧
    (argumentsOk len pcount →
      let F := encodedFrame s.cfg node kind ident len pcount payload
      exec (.encode tag node kind ident len pcount payload) s =
        .next (responded { s with txBuf := Memory.writeBytes s.txBuf 0 F } ([0x10, tag, 0x00] ++ F)))

/-- 40_codec.md R235: a frame ENCODE builds decodes to the values it was built from, under every table and both policies. -/
def Obligations.EncodedFrameDecodes : Prop :=
  ∀ (c : Config) (node kind : Byte) (ident : Word) (len pcount : Byte) (payload : List Byte),
    payload.length = 8 → len ≤ 8#8 → pcount ≤ len →
    ∃ F f, encodeFrame c node kind ident len pcount payload = some F ∧ decodeBytes c F = .ok f ∧
      f.marker = 0xFFFF#16 ∧ f.tick = c.txTick ∧ f.node = node ∧ f.kind = kind ∧ f.identifier = ident ∧ f.length = len ∧
      DecodedFrame.payload f = payload.take pcount.toNat ++ List.replicate (len.toNat - pcount.toNat) 0

/-- 40_codec.md R220, R221, R222, 60_exceptions.md R401: DECODE reports the first failing check in the order length, marker, declared
length, checksum, and otherwise answers OK with the record; it writes nothing. -/
def Obligations.DecodeResult : Prop :=
  ∀ (s : State) (tag : Byte) (B : List Byte),
    (B.length ≠ 25 → exec (.decode tag B) s = .next (responded s [0x11, tag, 0x01, 0x01])) ∧
    (B.length = 25 → le16 B 0 ≠ 0xFFFF#16 → le16 B 0 ≠ 0xAAAA#16 →
      exec (.decode tag B) s = .next (responded s [0x11, tag, 0x01, 0x02])) ∧
    (B.length = 25 → le16 B 0 = 0xFFFF#16 ∨ le16 B 0 = 0xAAAA#16 → 8#8 < byteAt B 12 → s.cfg.dlcPolicy = .reject →
      exec (.decode tag B) s = .next (responded s [0x11, tag, 0x01, 0x03])) ∧
    (B.length = 25 → le16 B 0 = 0xFFFF#16 ∨ le16 B 0 = 0xAAAA#16 → byteAt B 12 ≤ 8#8 ∨ s.cfg.dlcPolicy = .clamp →
      le32 B 21 ≠ crc32Ssb s.cfg.crcTable (B.take 21) →
      exec (.decode tag B) s = .next (responded s [0x11, tag, 0x01, 0x04])) ∧
    (B.length = 25 → le16 B 0 = 0xFFFF#16 ∨ le16 B 0 = 0xAAAA#16 → byteAt B 12 ≤ 8#8 ∨ s.cfg.dlcPolicy = .clamp →
      le32 B 21 = crc32Ssb s.cfg.crcTable (B.take 21) →
      exec (.decode tag B) s =
        .next (responded s ([0x11, tag, 0x00] ++ decodeRecord
          { marker := le16 B 0, tick := le32 B 2, node := byteAt B 6, kind := byteAt B 7, identifier := le32 B 8
            length := if byteAt B 12 ≤ 8#8 then byteAt B 12 else 8#8
            payloadRaw := slice B 13 21, checksum := le32 B 21 })))

/-- 40_codec.md R229: the layout of the OK response of DECODE, offset by offset, for every frame a decode can give. The decoded payload
is the first `length` bytes of the payload field at offset 17, and the total length leaves no room for a second copy. -/
def Obligations.DecodeRecordLayout : Prop :=
  ∀ (tag : Byte) (f : DecodedFrame), FrameOk f →
    let R := responseBytes 0x11 tag .ok (decodeRecord f)
    let n1 := (DecodedFrame.identifierTxt f).length
    let n3 := (DecodedFrame.payloadTxt f).length
    DecodedFrame.payload f = f.payloadRaw.take f.length.toNat ∧ slice R 17 (17 + f.length.toNat) = DecodedFrame.payload f ∧
    byteAt R 3 = 0x00 ∧ le16 R 4 = f.marker ∧ le32 R 6 = f.tick ∧ byteAt R 10 = f.node ∧ byteAt R 11 = f.kind ∧
    le32 R 12 = f.identifier ∧ byteAt R 16 = f.length ∧ slice R 17 25 = f.payloadRaw ∧ le32 R 25 = f.checksum ∧
    (byteAt R 29).toNat = n1 ∧ 3 ≤ n1 ∧ n1 ≤ 10 ∧ slice R 30 (30 + n1) = DecodedFrame.identifierTxt f ∧
    byteAt R (30 + n1) = 6 ∧ slice R (31 + n1) (37 + n1) = DecodedFrame.markerTxt f ∧
    (byteAt R (37 + n1)).toNat = n3 ∧ n3 = 3 * f.length.toNat - 1 ∧
    slice R (38 + n1) (38 + n1 + n3) = DecodedFrame.payloadTxt f ∧
    byteAt R (38 + n1 + n3) = 8 ∧ slice R (39 + n1 + n3) (47 + n1 + n3) = DecodedFrame.checksumTxt f ∧
    R.length = 47 + n1 + n3

/-- 40_codec.md R224: a frame whose length byte is 9 to 255, under both policies. -/
def Obligations.LongLengthByte : Prop :=
  ∀ (c : Config) (B : List Byte), B.length = 25 → le16 B 0 = 0xFFFF#16 ∨ le16 B 0 = 0xAAAA#16 → 8#8 < byteAt B 12 →
    (c.dlcPolicy = .reject → decodeBytes c B = .error .badDlc) ∧
    (c.dlcPolicy = .clamp → le32 B 21 ≠ crc32Ssb c.crcTable (B.take 21) → decodeBytes c B = .error .badChecksum) ∧
    (c.dlcPolicy = .clamp → le32 B 21 = crc32Ssb c.crcTable (B.take 21) →
      ∃ f, decodeBytes c B = .ok f ∧ f.length = 8#8 ∧ DecodedFrame.payload f = f.payloadRaw ∧ f.payloadRaw = slice B 13 21)

/-- 40_codec.md R236: a string of another length, or with an unknown marker, is invalid; a valid frame with another checksum is
BAD_CHECKSUM; and, under both tables, a valid frame changed only inside two adjacent bytes of offsets 0..20, with the marker still valid
and the length byte still at most 8, is BAD_CHECKSUM. -/
def Obligations.TamperedFrameRejected : Prop :=
  ∀ (c : Config) (B' : List Byte),
    (B'.length ≠ 25 → decodeBytes c B' = .error .badLength) ∧
    (B'.length = 25 → le16 B' 0 ≠ 0xFFFF#16 → le16 B' 0 ≠ 0xAAAA#16 → decodeBytes c B' = .error .badMarker) ∧
    ∀ (B : List Byte) (f : DecodedFrame), decodeBytes c B = .ok f → B'.length = 25 → B' ≠ B →
      (B'.take 21 = B.take 21 → decodeBytes c B' = .error .badChecksum) ∧
      (c.crcTable = tMsb ∨ c.crcTable = tRefl → B'.drop 21 = B.drop 21 →
        (∃ i, ∀ j, j ≠ i → j ≠ i + 1 → byteAt B' j = byteAt B j) →
        le16 B' 0 = 0xFFFF#16 ∨ le16 B' 0 = 0xAAAA#16 → byteAt B' 12 ≤ 8#8 → decodeBytes c B' = .error .badChecksum)

/-- 00_scope.md R16, 40_codec.md R226: `render_hex` spells the value in the ASCII digits 0-9 and A-F, most significant first, without a
leading zero unless the value is zero, and two values with one spelling are equal. -/
def Obligations.RenderHexCanonical : Prop :=
  (∀ v : Word, ∃ ds : List Nat, renderHex v.toNat = [0x30, 0x78] ++ ds.map (byteAt hexAlphabet) ∧ (∀ d ∈ ds, d < 16) ∧
    ds.foldl (fun a d => 16 * a + d) 0 = v.toNat ∧ ds ≠ [] ∧ (ds.head? = some 0 → ds = [0])) ∧
  (∀ v w : Word, renderHex v.toNat = renderHex w.toNat → v = w)

/-- 00_scope.md R16, 40_codec.md R227, R228: the payload text is the two-digit spellings in the ASCII digits 0-9 and A-F joined by one
space, the checksum text the spellings with nothing between. -/
def Obligations.RenderedBytes : Prop :=
  ∀ P : List Byte,
    (renderPayload P).length = 3 * P.length - 1 ∧ (renderChecksum P).length = 2 * P.length ∧
    ∀ i, i < P.length →
      let digits := [byteAt hexAlphabet ((byteAt P i).toNat / 16), byteAt hexAlphabet ((byteAt P i).toNat % 16)]
      slice (renderPayload P) (3 * i) (3 * i + 2) = digits ∧
      (i + 1 < P.length → byteAt (renderPayload P) (3 * i + 2) = 0x20) ∧
      slice (renderChecksum P) (2 * i) (2 * i + 2) = digits

/-! ### Received frames -/

/-- 41_transport.md R266, 40_codec.md R220, R222, R224, R230: a DATA_FRAME chunk with the right checksum and a legal length byte is
appended to `batch` as its record; one with a wrong checksum, or a length byte above 8 under REJECT, is dropped with no effect; under
CLAMP a length byte above 8 is appended as length 8. -/
def Obligations.DataFrameResult : Prop :=
  ∀ (s : State) (tick : Word) (node kind : Byte) (ident : Word) (len : Byte) (payload : List Byte) (checksum : Word),
    payload.length = 8 →
    let head := [0xFF, 0xFF] ++ bytesLe32 tick ++ [node, kind] ++ bytesLe32 ident ++ [len] ++ payload
    (checksum = crc32Ssb s.cfg.crcTable head → len ≤ 8#8 →
      exec (.dataFrame tick node kind ident len payload checksum) s =
        .next { s with batch := s.batch ++
          [{ marker := 0xFFFF, tick := tick, node := node, kind := kind, identifier := ident, length := len
             payloadRaw := payload, checksum := checksum }] }) ∧
    (checksum ≠ crc32Ssb s.cfg.crcTable head ∨ 8#8 < len ∧ s.cfg.dlcPolicy = .reject →
      exec (.dataFrame tick node kind ident len payload checksum) s = .next s) ∧
    (checksum = crc32Ssb s.cfg.crcTable head → 8#8 < len → s.cfg.dlcPolicy = .clamp →
      exec (.dataFrame tick node kind ident len payload checksum) s =
        .next { s with batch := s.batch ++
          [{ marker := 0xFFFF, tick := tick, node := node, kind := kind, identifier := ident, length := 8
             payloadRaw := payload, checksum := checksum }] })

/-- The same of ACK_FRAME: an ACK frame is decoded by exactly the same checks (R220). -/
def Obligations.AckFrameResult : Prop :=
  ∀ (s : State) (tick : Word) (node kind : Byte) (ident : Word) (len : Byte) (payload : List Byte) (checksum : Word),
    payload.length = 8 →
    let head := [0xAA, 0xAA] ++ bytesLe32 tick ++ [node, kind] ++ bytesLe32 ident ++ [len] ++ payload
    (checksum = crc32Ssb s.cfg.crcTable head → len ≤ 8#8 →
      exec (.ackFrame tick node kind ident len payload checksum) s =
        .next { s with batch := s.batch ++
          [{ marker := 0xAAAA, tick := tick, node := node, kind := kind, identifier := ident, length := len
             payloadRaw := payload, checksum := checksum }] }) ∧
    (checksum ≠ crc32Ssb s.cfg.crcTable head ∨ 8#8 < len ∧ s.cfg.dlcPolicy = .reject →
      exec (.ackFrame tick node kind ident len payload checksum) s = .next s) ∧
    (checksum = crc32Ssb s.cfg.crcTable head → 8#8 < len → s.cfg.dlcPolicy = .clamp →
      exec (.ackFrame tick node kind ident len payload checksum) s =
        .next { s with batch := s.batch ++
          [{ marker := 0xAAAA, tick := tick, node := node, kind := kind, identifier := ident, length := 8
             payloadRaw := payload, checksum := checksum }] })

/-! ### The lifecycle commands -/

/-- 41_transport.md R260: CONNECT asks the USB layer; OK, possible only with the device present, sets `connected` and answers OK; FAIL
answers NO_DEVICE and leaves `connected` as it was. -/
def Obligations.ConnectResult : Prop :=
  (∀ (s : State) (tag : Byte),
    exec (.connect tag) s = .next { s with out := s.out ++ [.usbOpen Config.usbVid Config.usbPid 1] }) ∧
  (∀ (s : State) (tag : Byte) (d : List Byte) (rest : List Move),
    s.cmdState = .exec d → decodeDescriptor d = .ok (.connect tag) →
    let n := opensIssued s.out
    (s.agenda = .usbOpened n true :: rest → s.devPresent = true →
      step s = .next (responded { s with agenda := rest, connected := true } [0x01, tag, 0x00])) ∧
    (s.agenda = .usbOpened n true :: rest → s.devPresent = false → step s = .next { s with agenda := rest }) ∧
    (s.agenda = .usbOpened n false :: rest → step s = .next (responded { s with agenda := rest } [0x01, tag, 0x07])))

/-- 41_transport.md R261: DISCONNECT. -/
def Obligations.DisconnectResult : Prop :=
  (∀ (s : State) (tag : Byte),
    (s.running = false → exec (.disconnect tag) s = .next (responded { s with connected := false } [0x02, tag, 0x00])) ∧
    (s.running = true → exec (.disconnect tag) s = .next { s with stopReq := true })) ∧
  (∀ (s : State) (tag : Byte) (d : List Byte) (rest : List Move),
    s.cmdState = .exec d → decodeDescriptor d = .ok (.disconnect tag) → s.agenda = .resume :: rest →
    (s.running = false → step s = .next (responded { s with agenda := rest, connected := false } [0x02, tag, 0x00])) ∧
    (s.running = true → step s = .next { s with agenda := rest }))

/-- 41_transport.md R262: START; a new loop begins with an empty batch, because a loop that is not running has none. -/
def Obligations.StartResult : Prop :=
  ∀ (s : State) (tag : Byte),
    (¬ (s.connected = true ∧ s.devPresent = true) → exec (.start tag) s = .next (responded s [0x03, tag, 0x08])) ∧
    (s.connected = true ∧ s.devPresent = true → s.running = true →
      exec (.start tag) s = .next (responded s [0x03, tag, 0x00])) ∧
    (s.connected = true ∧ s.devPresent = true → s.running = false →
      exec (.start tag) s =
        .next (responded { s with running := true, stopReq := false, rdState := .idle } [0x03, tag, 0x00])) ∧
    (s.running = false → LoopInv s → ∀ t, exec (.start tag) s = .next t → t.batch = [])

/-- 41_transport.md R263: STOP; it waits until the read engine has honoured the stop request, then disconnects. -/
def Obligations.StopResult : Prop :=
  (∀ (s : State) (tag : Byte),
    (s.running = false → exec (.stop tag) s = .next (responded { s with connected := false } [0x04, tag, 0x00])) ∧
    (s.running = true → exec (.stop tag) s = .next { s with stopReq := true })) ∧
  (∀ (s : State) (tag : Byte) (d : List Byte) (rest : List Move),
    s.cmdState = .exec d → decodeDescriptor d = .ok (.stop tag) → s.agenda = .resume :: rest →
    (s.running = false → step s = .next (responded { s with agenda := rest, connected := false } [0x04, tag, 0x00])) ∧
    (s.running = true → step s = .next { s with agenda := rest }))

/-- 41_transport.md R264, 10_state.md R58: STATUS answers the view, bit by bit, with CONNECTED re-verified from the live input. -/
def Obligations.StatusResult : Prop :=
  ∀ (s : State) (tag : Byte), ∃ v : Byte,
    exec (.status tag) s = .next (responded s [0x05, tag, 0x00, v]) ∧
    v.getLsbD 0 = (s.connected && s.devPresent) ∧ v.getLsbD 1 = s.running ∧
    v.getLsbD 2 = decide (s.corr ≠ .idle) ∧ v.getLsbD 3 = decide (s.dispState ≠ .idle) ∧ v.extractLsb' 4 4 = 0#4

/-! ### The write primitive -/

/-- 41_transport.md R274: SEND. The arguments, then the link, then one OUT write of the 25 bytes; the answer, after the write has
completed with `w` bytes, is OK exactly when `w = 25`. -/
def Obligations.SendResult : Prop :=
  (∀ (s : State) (tag node kind : Byte) (ident : Word) (len pcount : Byte) (payload : List Byte), payload.length = 8 →
    let F := encodedFrame s.cfg node kind ident len pcount payload
    let i : Instr := .send tag node kind ident len pcount payload
    (¬ argumentsOk len pcount → exec i s = .next (responded s [0x20, tag, 0x02])) ∧
    (argumentsOk len pcount → ¬ (s.connected = true ∧ s.devPresent = true) →
      exec i s = .next (responded { s with txBuf := Memory.writeBytes s.txBuf 0 F } [0x20, tag, 0x03])) ∧
    (argumentsOk len pcount → s.connected = true ∧ s.devPresent = true →
      exec i s = .next { s with txBuf := Memory.writeBytes s.txBuf 0 F, outPort := .busy
                                out := s.out ++ [.usbWrite F] })) ∧
  (∀ (s : State) (tag node kind : Byte) (ident : Word) (len pcount : Byte) (payload d : List Byte) (w : Fin 26)
    (rest : List Move),
    s.cmdState = .exec d → decodeDescriptor d = .ok (.send tag node kind ident len pcount payload) →
    s.outPort = .done w → s.agenda = .resume :: rest →
    step s = .next (responded { s with agenda := rest, outPort := .idle } [0x20, tag, if w.val = 25 then 0x00 else 0x03]))

/-- 41_transport.md R275, R276: a write completion is taken once per issued write, with any count 0 to 25, and ignored when that write is
not outstanding; a change of `dev_present` changes no state element. -/
def Obligations.WriteCompletionAndDeviceChange : Prop :=
  ∀ (s : State) (rest : List Move),
    (∀ n w, s.agenda = .writeDone n w :: rest →
      (s.outPort = .busy → n = writesIssued s.out → step s = .next { s with agenda := rest, outPort := .done w }) ∧
      (s.outPort ≠ .busy ∨ n ≠ writesIssued s.out → step s = .next { s with agenda := rest })) ∧
    (∀ b, s.agenda = .devChange b :: rest → step s = .next { s with agenda := rest, devPresent := b })

/-! ### The subscription table -/

/-- 42_dispatcher.md R300, R302, R304: SUBSCRIBE. Reserved bits, then a duplicate, then the capacities, then the entry at the end of
its key's list; every other key keeps its list. Only external entries count against a capacity: a key that holds the correlator's
entry alone is not counted, nor is that entry in its list. -/
def Obligations.SubscribeResult : Prop :=
  ∀ (s : State) (tag : Byte) (ident : Word) (marker lid : Half) (mode : Byte),
    let k : Key := { marker := marker, identifier := ident }
    let i : Instr := .subscribe tag ident marker lid mode
    let reserved := lid.toNat / 2 ^ s.cfg.listenerIdBits ≠ 0 ∨ mode.toNat / 2 ≠ 0
    let duplicate := ∃ e ∈ SubTable.listeners s.subs k, e.lid = .ext lid
    let keys := (s.subs.filter fun kl => kl.2.any external).length
    let full := (SubTable.find s.subs k = none ∧ ∃ n, s.cfg.maxKeys = some n ∧ n ≤ keys) ∨
      (∃ l n, SubTable.find s.subs k = some l ∧ s.cfg.maxListeners = some n ∧ n ≤ (l.filter external).length)
    (reserved → exec i s = .next (responded s [0x30, tag, 0x02])) ∧
    (¬ reserved → duplicate → exec i s = .next (responded s [0x30, tag, 0x00])) ∧
    (¬ reserved → ¬ duplicate → full → exec i s = .next (responded s [0x30, tag, 0x06])) ∧
    (¬ reserved → ¬ duplicate → ¬ full →
      ∃ subs', exec i s = .next (responded { s with subs := subs' } [0x30, tag, 0x00]) ∧
        SubTable.find subs' k = some (SubTable.listeners s.subs k ++
          [{ lid := .ext lid, mode := if mode.getLsbD 0 then .async else .sync }]) ∧
        ∀ k', k' ≠ k → SubTable.find subs' k' = SubTable.find s.subs k')

/-- 42_dispatcher.md R305, R306: UNSUBSCRIBE. The listener's entry goes, the order of the rest is kept, an emptied key goes, every
other key keeps its list, and MODE plays no part. -/
def Obligations.UnsubscribeResult : Prop :=
  ∀ (s : State) (tag : Byte) (ident : Word) (marker lid : Half) (mode : Byte), TableInv s →
    let k : Key := { marker := marker, identifier := ident }
    let i : Instr := .unsubscribe tag ident marker lid mode
    let rest := (SubTable.listeners s.subs k).filter (fun e => decide (e.lid ≠ .ext lid))
    (lid.toNat / 2 ^ s.cfg.listenerIdBits ≠ 0 → exec i s = .next (responded s [0x31, tag, 0x02])) ∧
    (lid.toNat / 2 ^ s.cfg.listenerIdBits = 0 →
      ∃ subs', exec i s = .next (responded { s with subs := subs' } [0x31, tag, 0x00]) ∧
        SubTable.find subs' k = (if rest = [] then none else some rest) ∧
        ∀ k', k' ≠ k → SubTable.find subs' k' = SubTable.find s.subs k')

/-- 20_memory.md R90: STATUS, ENCODE, DECODE, CHECKSUM, SUBSCRIBE and UNSUBSCRIBE are idempotent: issued again they give the same
response and change nothing more. -/
def Obligations.RepeatedCommandChangesNothing : Prop :=
  ∀ (i : Instr) (s t : State), TableInv s → BufferInv s → i.wellFormed = true →
    (match i with
      | .status _ | .encode _ _ _ _ _ _ _ | .decode _ _ | .checksum _ _ | .subscribe _ _ _ _ _ | .unsubscribe _ _ _ _ _ => True
      | _ => False) →
    exec i s = .next t →
    ∃ r, t.out = s.out ++ [.response r] ∧ exec i t = .next { t with out := t.out ++ [.response r] }

/-! ### The read engine -/

/-- 41_transport.md R265: the issue step, and when it is not enabled. The timeout goes to the USB layer with the read, and the SCFE does
not count it: a strobe of the time base leaves `rd_state` as it is. -/
def Obligations.ReadIssued : Prop :=
  (∀ (s : State) (rest : List Move), s.agenda = .issueRead :: rest →
    (s.running = true → s.stopReq = false → s.rdState = .idle →
      step s = .next { s with agenda := rest, rdState := .readPending
                              out := s.out ++ [.usbRead 500 s.cfg.rxReadTimeoutMs] }) ∧
    (s.running = false ∨ s.stopReq = true ∨ s.rdState ≠ .idle → step s = .next { s with agenda := rest })) ∧
  (∀ (s : State) (rest : List Move), s.agenda = .strobe :: rest → ∃ t, step s = .next t ∧ t.rdState = s.rdState)

/-- 41_transport.md R266, R271, R272: the deframe step is the slicing of the transfer: `batch` becomes the valid frames of its 25-byte
chunks in transfer order, a short tail and every malformed chunk dropped. -/
def Obligations.DeframeIsSlicing : Prop :=
  ∀ (s : State) (T : List Byte) (rest : List Move),
    s.agenda = .transfer (readsIssued s.out) T :: rest → s.rdState = .readPending → s.stopReq = false →
    1 ≤ T.length → T.length ≤ 500 →
    let chunks := (List.range ((T.length + 24) / 25)).map fun c => (T.drop (25 * c)).take 25
    let batch := chunks.filterMap fun chunk => (decodeBytes s.cfg chunk).toOption
    step s = .next { s with agenda := rest, rxBuf := Memory.writeBytes s.rxBuf 0 T, rxLen := T.length, batch := batch
                            rdState := if batch = [] then .idle else .dispatching }

/-- 41_transport.md R267, R268: the outstanding read, completing by timeout, with an error or with zero bytes, only ends. 60_exceptions.md
R408, 41_transport.md R270, R273: a completion of any other read, or with none outstanding, changes nothing; nor does a transfer of bytes
with `stop_req` set (DEDUCED, assumption log 18) or of more than 500 bytes (DEDUCED, assumption log 11). -/
def Obligations.EmptyReadRetries : Prop :=
  (∀ (s : State) (m : Move) (n : Nat) (rest : List Move),
    s.agenda = m :: rest → m = .readTimeout n ∨ m = .readError n ∨ m = .transfer n [] →
    (s.rdState = .readPending → n = readsIssued s.out → step s = .next { s with agenda := rest, rdState := .idle }) ∧
    (s.rdState ≠ .readPending ∨ n ≠ readsIssued s.out → step s = .next { s with agenda := rest })) ∧
  (∀ (s : State) (n : Nat) (T : List Byte) (rest : List Move), s.agenda = .transfer n T :: rest → T ≠ [] →
    s.rdState ≠ .readPending ∨ n ≠ readsIssued s.out ∨ s.stopReq = true ∨ 500 < T.length →
    step s = .next { s with agenda := rest })

/-- 41_transport.md R269: the end of the batch, and when it is not enabled. -/
def Obligations.BatchEnds : Prop :=
  ∀ (s : State) (rest : List Move), s.agenda = .endBatch :: rest → s.rdState = .dispatching →
    (s.batch = [] → s.dispState = .idle → step s = .next { s with agenda := rest, rdState := .idle }) ∧
    (s.batch ≠ [] ∨ s.dispState ≠ .idle → step s = .next { s with agenda := rest })

/-- 41_transport.md R270: the stop step, row by row. -/
def Obligations.StopStepRows : Prop :=
  ∀ (s : State) (rest : List Move), s.agenda = .stopLoop :: rest → s.stopReq = true →
    let ended := { s with agenda := rest, running := false, stopReq := false, rdState := .idle }
    (s.rdState = .idle → step s = .next ended) ∧
    (s.rdState = .readPending → step s = .next { ended with out := s.out ++ [.usbCancel] }) ∧
    (s.rdState = .dispatching → s.dispState = .idle → step s = .next { ended with batch := [] }) ∧
    (∀ f w, s.rdState = .dispatching → s.dispState = .async f w →
      step s = .next { ended with batch := [], dispState := .idle }) ∧
    (∀ f l k, s.rdState = .dispatching → s.dispState = .sync f l k false → (∀ e ∈ l.drop k, e.mode = .async) →
      step s = .next { ended with batch := [], dispState := .idle }) ∧
    (∀ f l k waiting, s.rdState = .dispatching → s.dispState = .sync f l k waiting →
      waiting = true ∨ (∃ e ∈ l.drop k, e.mode = .sync) → step s = .next { s with agenda := rest })

/-! ### The dispatch engine -/

/-- 42_dispatcher.md R310, R311, R312: the dispatch of the batch's first frame begins with the lookup of its own key; an unmatched frame
is dropped at once; nothing starts once `stop_req` is set. -/
def Obligations.DispatchStarts : Prop :=
  ∀ (s : State) (f : DecodedFrame) (fs : List DecodedFrame) (rest : List Move),
    s.agenda = .dispatch :: rest → s.dispState = .idle → s.rdState = .dispatching → s.batch = f :: fs →
    (s.stopReq = false → SubTable.listeners s.subs { marker := f.marker, identifier := f.identifier } = [] →
      step s = .next { s with agenda := rest, batch := fs }) ∧
    (s.stopReq = false → SubTable.listeners s.subs { marker := f.marker, identifier := f.identifier } ≠ [] →
      step s = .next { s with agenda := rest, batch := fs
                              dispState := .sync f
                                (SubTable.listeners s.subs { marker := f.marker, identifier := f.identifier }) 0 false }) ∧
    (s.stopReq = true → step s = .next { s with agenda := rest })

/-- 42_dispatcher.md R313: the synchronous phase delivers to the smallest index at or after `k` whose mode is SYNC, and waits for that
listener; the completion of that delivery moves on to the next index, and any other completion is ignored (R315, 60_exceptions.md
R408). -/
def Obligations.SyncDelivery : Prop :=
  ∀ (s : State) (f : DecodedFrame) (l : List Entry) (k j : Nat) (lid : Half) (rest : List Move),
    k ≤ j → l[j]? = some { lid := .ext lid, mode := .sync } → (∀ i e, k ≤ i → i < j → l[i]? = some e → e.mode = .async) →
    (s.agenda = .dispatch :: rest → s.dispState = .sync f l k false →
      step s = .next { s with agenda := rest, dispState := .sync f l k true, out := s.out ++ [.deliver (.ext lid) f] }) ∧
    (s.agenda = .listenerDone lid (deliveriesTo lid s.out) :: rest → s.dispState = .sync f l k true →
      step s = .next { s with agenda := rest, dispState := .sync f l (j + 1) false }) ∧
    (∀ lid' n, lid' ≠ lid ∨ n ≠ deliveriesTo lid s.out → s.agenda = .listenerDone lid' n :: rest → s.dispState = .sync f l k true →
      step s = .next { s with agenda := rest })

/-- 42_dispatcher.md R314: with no synchronous entry left and no stop request, every asynchronous entry is delivered to in one step.
R314 makes W a set; that the deliveries stand in the log, and the handles in W, in the order of the snapshot is the model's own choice
(DESIGN CHOICE, assumption log 12). -/
def Obligations.AsyncDelivery : Prop :=
  ∀ (s : State) (f : DecodedFrame) (l : List Entry) (k : Nat) (rest : List Move),
    s.agenda = .dispatch :: rest → s.dispState = .sync f l k false → (∀ e ∈ l.drop k, e.mode = .async) → s.stopReq = false →
    let W := (l.filter (fun e => decide (e.mode = .async))).map Entry.lid
    step s = .next { s with agenda := rest, out := s.out ++ W.map (fun h => .deliver h f)
                            dispState := if W = [] then .idle else .async f W }

/-- 42_dispatcher.md R315: a completion removes its handle; the last one ends the dispatch; one that is not awaited is ignored, the late
completion of an earlier delivery to an awaited listener among them. -/
def Obligations.AsyncCompletion : Prop :=
  ∀ (s : State) (f : DecodedFrame) (w : List Handle) (lid : Half) (n : Nat) (rest : List Move),
    s.agenda = .listenerDone lid n :: rest → s.dispState = .async f w →
    (Handle.ext lid ∉ w ∨ n ≠ deliveriesTo lid s.out → step s = .next { s with agenda := rest }) ∧
    (Handle.ext lid ∈ w → n = deliveriesTo lid s.out → ∃ t, step s = .next t ∧
      (t.dispState = .idle ∨ ∃ w', t.dispState = .async f w' ∧ w' ≠ [] ∧ ∀ h, h ∈ w' ↔ h ∈ w ∧ h ≠ .ext lid) ∧
      (t.dispState = .idle ↔ ∀ h ∈ w, h = .ext lid) ∧ t = { s with agenda := rest, dispState := t.dispState })

/-- 41_transport.md R265, R269, 42_dispatcher.md R316, R317: whatever agent moves, the log of outward events only grows; a bulk IN read
is issued only by leaving IDLE for READ_PENDING, so none while a batch is dispatched; and every delivery made is of the frame being
dispatched, to a handle of that dispatch's snapshot. -/
def Obligations.ReadsAndDeliveriesAreInTurn : Prop :=
  ∀ s t : State, step s = .next t →
    ∃ es, t.out = s.out ++ es ∧
      (∀ n ms, .usbRead n ms ∈ es → s.rdState = .idle ∧ s.running = true ∧ s.stopReq = false ∧ t.rdState = .readPending) ∧
      (∀ h f, .deliver h f ∈ es → ∃ l k, s.dispState = .sync f l k false ∧ h ∈ l.map Entry.lid)

/-- 10_state.md R54, 42_dispatcher.md R307, R311: whatever agent moves, a dispatch begins with the first frame of the batch and the list
under that frame's own key, and its frame and snapshot never change until it ends. -/
def Obligations.SnapshotFixedAtLookup : Prop :=
  ∀ (s t : State) (f : DecodedFrame) (l : List Entry) (k : Nat) (waiting : Bool),
    step s = .next t → t.dispState = .sync f l k waiting →
    (s.dispState = .idle ∧ s.batch = f :: t.batch ∧
      SubTable.find s.subs { marker := f.marker, identifier := f.identifier } = some l) ∨
    ∃ k' waiting', s.dispState = .sync f l k' waiting'

/-- 42_dispatcher.md R313, R320: in a synchronous wait nothing changes the dispatch but the awaited listener's completion, or a reset.
The awaited listener is that of the first synchronous entry at or after `k`, and the completion is that of the latest delivery to it. -/
def Obligations.SyncWaitEndsOnlyByCompletion : Prop :=
  ∀ (s t : State) (f : DecodedFrame) (l : List Entry) (k : Nat),
    s.dispState = .sync f l k true → step s = .next t → t.dispState ≠ s.dispState →
    (takeMove s).1 = .assertReset ∨
    ∃ j lid, k ≤ j ∧ l[j]? = some { lid := .ext lid, mode := .sync } ∧
      (∀ i e, k ≤ i → i < j → l[i]? = some e → e.mode = .async) ∧
      (takeMove s).1 = .listenerDone lid (deliveriesTo lid s.out) ∧ t.dispState = .sync f l (j + 1) false

/-! ### The correlator -/

/-- 43_correlator.md R341: the checks of SEND_ACKED, in order, and what each leaves; with all passed the frame is written and the
correlation is WRITING (R340). The OUT port `busy` is the model's transaction (DEDUCED, assumption log 6), and the quotient rounded down
is its ACK_POLLS for every configuration (DESIGN CHOICE, assumption log 19). -/
def Obligations.SendAckedChecks : Prop :=
  ∀ (s : State) (tag node kind : Byte) (ident : Word) (len pcount : Byte) (payload : List Byte), payload.length = 8 →
    let F := encodedFrame s.cfg node kind ident len pcount payload
    let i : Instr := .sendAcked tag node kind ident len pcount payload
    (s.corr ≠ .idle → exec i s = .next (responded s [0x21, tag, 0x05])) ∧
    (s.corr = .idle → ¬ argumentsOk len pcount → exec i s = .next (responded s [0x21, tag, 0x02])) ∧
    (s.corr = .idle → argumentsOk len pcount → ¬ (s.connected = true ∧ s.devPresent = true) →
      exec i s = .next (responded { s with txBuf := Memory.writeBytes s.txBuf 0 F } [0x21, tag, 0x03])) ∧
    (s.corr = .idle → argumentsOk len pcount → s.connected = true ∧ s.devPresent = true →
      exec i s = .next { s with
        txBuf := Memory.writeBytes s.txBuf 0 F, outPort := .busy, out := s.out ++ [.usbWrite F]
        corr := .writing { tag := tag, identifier := ident, gen := 0
                           pollsLeft := s.cfg.ackTimeoutMs / s.cfg.ackPollMs, captured := none } })

/-- 43_correlator.md R343, R349: after the write, arming as one step that releases the port without an answer; after a failed write
WRITE_FAILED with nothing armed. That the command goes on in a step of its own is the model's reading (DEDUCED, assumption log 6), and
the quotient rounded down is its ACK_POLLS for every configuration (DESIGN CHOICE, assumption log 19). -/
def Obligations.ArmingStep : Prop :=
  ∀ (s : State) (tag node kind : Byte) (ident : Word) (len pcount : Byte) (payload d : List Byte) (w : Fin 26)
    (c : Correlation) (rest : List Move),
    s.cmdState = .exec d → decodeDescriptor d = .ok (.sendAcked tag node kind ident len pcount payload) →
    s.outPort = .done w → s.corr = .writing c → s.agenda = .resume :: rest →
    (w.val ≠ 25 →
      step s = .next (responded { s with agenda := rest, outPort := .idle, corr := .idle } [0x21, tag, 0x03])) ∧
    (w.val = 25 → ∃ subs',
      step s = .next { s with agenda := rest, outPort := .idle, cmdState := .idle, armGen := s.armGen + 1, subs := subs'
                              corr := .armed { c with gen := s.armGen, captured := none
                                                      pollsLeft := s.cfg.ackTimeoutMs / s.cfg.ackPollMs } } ∧
      SubTable.find subs' { marker := 0xAAAA, identifier := c.identifier } =
        some (SubTable.listeners s.subs { marker := 0xAAAA, identifier := c.identifier } ++
          [{ lid := .int s.armGen, mode := .sync }]) ∧
      ∀ k', k' ≠ { marker := 0xAAAA, identifier := c.identifier } → SubTable.find subs' k' = SubTable.find s.subs k')

/-- 43_correlator.md R344: the delivery to `int(g)` captures the tick of a matching ACK of the current arming, once, and completes in
the same step; any other delivery to an internal listener has no effect. -/
def Obligations.CaptureRule : Prop :=
  ∀ (s : State) (f : DecodedFrame) (l : List Entry) (k j : Nat) (g : Word) (rest : List Move),
    s.agenda = .dispatch :: rest → s.dispState = .sync f l k false →
    k ≤ j → l[j]? = some { lid := .int g, mode := .sync } → (∀ i e, k ≤ i → i < j → l[i]? = some e → e.mode = .async) →
    (∀ c, s.corr = .armed c → c.gen = g → c.captured = none → f.marker = 0xAAAA#16 → f.identifier = c.identifier →
      step s = .next { s with agenda := rest, dispState := .sync f l (j + 1) false
                              corr := .armed { c with captured := some f.tick } }) ∧
    ((∀ c, s.corr = .armed c →
        c.gen ≠ g ∨ c.captured ≠ none ∨ f.marker ≠ 0xAAAA#16 ∨ f.identifier ≠ c.identifier) →
      step s = .next { s with agenda := rest, dispState := .sync f l (j + 1) false })

/-- 43_correlator.md R345, R346, R347: one poll per strobe. A capture is reported at the next strobe and wins over the deadline; the
deadline gives NO_ACK; both remove the internal entry and end the correlation; otherwise one strobe less is left. -/
def Obligations.PollRule : Prop :=
  ∀ (s : State) (c : Correlation) (rest : List Move), s.agenda = .strobe :: rest → TableInv s →
    let k : Key := { marker := 0xAAAA, identifier := c.identifier }
    let left := (SubTable.listeners s.subs k).filter (fun e => decide (e.lid ≠ .int c.gen))
    let ended (subs' : SubTable) (r : List Byte) : State :=
      { s with agenda := rest, corr := .idle, subs := subs', out := s.out ++ [.response r] }
    let removed (subs' : SubTable) : Prop :=
      SubTable.find subs' k = (if left = [] then none else some left) ∧
      ∀ k', k' ≠ k → SubTable.find subs' k' = SubTable.find s.subs k'
    ((∀ c', s.corr ≠ .armed c') → step s = .next { s with agenda := rest }) ∧
    (∀ t, s.corr = .armed c → c.captured = some t →
      ∃ subs', step s = .next (ended subs' ([0x21, c.tag, 0x00] ++ bytesLe32 t)) ∧ removed subs') ∧
    (s.corr = .armed c → c.captured = none → c.pollsLeft = 1 →
      ∃ subs', step s = .next (ended subs' [0x21, c.tag, 0x04]) ∧ removed subs') ∧
    (s.corr = .armed c → c.captured = none → 1 < c.pollsLeft →
      step s = .next { s with agenda := rest, corr := .armed { c with pollsLeft := c.pollsLeft - 1 } })

/-- 43_correlator.md R345, R347, 60_exceptions.md R410: with no capture, the deadline is a count of strobes: after `n` of them fewer
than are left the correlation is still armed, and the last one answers NO_ACK. -/
def Obligations.DeadlineCountsStrobes : Prop :=
  ∀ (s : State) (c : Correlation) (rest : List Move) (n : Nat),
    s.corr = .armed c → c.captured = none → s.agenda = List.replicate n .strobe ++ rest →
    (n < c.pollsLeft →
      core.run n s = .next { s with agenda := rest, corr := .armed { c with pollsLeft := c.pollsLeft - n } }) ∧
    (1 ≤ n → n = c.pollsLeft →
      ∃ t, core.run n s = .next t ∧ t.corr = .idle ∧ t.agenda = rest ∧ t.out = s.out ++ [.response [0x21, c.tag, 0x04]])

/-- 43_correlator.md R348, R353: arming and then resolving gives back the table as it was. -/
def Obligations.ArmThenResolveRestoresTable : Prop :=
  ∀ (s : State) (c c' : Correlation) (st : Status) (data : List Byte),
    TableInv s → (∀ c'', s.corr ≠ .armed c'') → c'.gen = s.armGen → c'.identifier = c.identifier →
    (resolve c' st data (arm c s)).subs = s.subs

/-! ### Reset -/

/-- 70_reset_and_hazards.md R450, 10_state.md R58: the reset state, element by element, and the STATUS view after reset. The buffers are
unspecified there, so nothing is said of them. -/
def Obligations.ResetValues : Prop :=
  let s := State.reset
  s.cmdState = .idle ∧ s.connected = false ∧ s.running = false ∧ s.stopReq = false ∧ s.rdState = .idle ∧ s.rxLen = 0 ∧
  s.batch = [] ∧ s.subs = [] ∧ s.dispState = .idle ∧ s.corr = .idle ∧ s.armGen = 0 ∧ statusView s = 0x00

/-- 70_reset_and_hazards.md R450, R451: asserting `rst` in any state gives the same values, abandons the OUT write, and returns no
response. From then on, whatever agent moves, only transactions issued after the reset are outstanding, and a completion of one issued
before it is ignored, also while a new one of its kind, or to the same listener, is outstanding. Completions name their transaction by
its number, and the reset keeps the log that numbers them (DESIGN CHOICE, assumption log 21, 23). -/
def Obligations.ResetFromAnyState : Prop :=
  (∀ (s : State) (rest : List Move), s.agenda = .assertReset :: rest →
    ∃ t, step s = .next t ∧ t.cmdState = .idle ∧ t.connected = false ∧ t.running = false ∧ t.stopReq = false ∧
      t.rdState = .idle ∧ t.rxLen = 0 ∧ t.batch = [] ∧ t.subs = [] ∧ t.dispState = .idle ∧ t.corr = .idle ∧ t.armGen = 0 ∧
      t.outPort = .idle ∧ t.out = s.out ∧ t.cfg = s.cfg ∧ t.devPresent = s.devPresent ∧ statusView t = 0x00 ∧
      OutstandingSince s.out t) ∧
  (∀ (past : List OutEvent) (s t : State), OutstandingSince past s → step s = .next t → OutstandingSince past t) ∧
  (∀ (past : List OutEvent) (s : State) (m : Move) (n : Nat) (rest : List Move),
    OutstandingSince past s → s.agenda = m :: rest →
    (n ≤ opensIssued past ∧ ∃ ok, m = .usbOpened n ok) ∨
    (n ≤ readsIssued past ∧ ((∃ T, m = .transfer n T) ∨ m = .readTimeout n ∨ m = .readError n)) ∨
    (n ≤ writesIssued past ∧ ∃ w, m = .writeDone n w) ∨
    (∃ lid, n ≤ deliveriesTo lid past ∧ m = .listenerDone lid n) →
    step s = .next { s with agenda := rest })

/-! ### Invariants -/

/-- The reset state meets every invariant. -/
def Obligations.ResetMeetsInvariants : Prop := Inv State.reset

/-- 10_state.md R52 (I1), (I2), (I3): every step keeps the subscription table well-formed. -/
def Obligations.StepKeepsTable : Prop :=
  ∀ s t : State, TableInv s → step s = .next t → TableInv t

/-- 10_state.md R47, R48, 20_memory.md R84: every step keeps the buffers canonical and inside their sizes. -/
def Obligations.StepKeepsBuffers : Prop :=
  ∀ s t : State, BufferInv s → step s = .next t → BufferInv t

/-- 40_codec.md R220, R222, R230: every step keeps malformed frames out of the batch and the dispatch: marker, length, payload field and
checksum are those of a valid frame. -/
def Obligations.StepKeepsFramesValid : Prop :=
  ∀ s t : State, FrameInv s → step s = .next t → FrameInv t

/-- 10_state.md R45, R46, 41_transport.md R269, 42_dispatcher.md R313, R315: every step keeps the states of the read loop consistent,
and the dispatch engine waiting only for listeners of whose delivery the log of outward events tells. -/
def Obligations.StepKeepsLoopAndDispatch : Prop :=
  ∀ s t : State, step s = .next t → (LoopInv s → LoopInv t) ∧ (DispatchInv s → DispatchInv t)

/-- 10_state.md R43, 41_transport.md R275: every step keeps the command engine at a command that waits for something outstanding. -/
def Obligations.StepKeepsCommand : Prop :=
  ∀ s t : State, LoopInv s → CommandInv s → step s = .next t → CommandInv t

/-- 10_state.md R55, 43_correlator.md R353: every step keeps an armed correlation's entry in the table and its deadline in range. -/
def Obligations.StepKeepsCorrelation : Prop :=
  ∀ s t : State, CorrelationInv s → TableInv s → step s = .next t → CorrelationInv t

/-! ### Frames and whole-machine rules -/

/-- What no instruction of the table writes (10_state.md R42): the receive buffer, the dispatch, the arming number, the inputs, the
configuration and the schedule; and what only some write: `tx_buf` beyond offset 24 by none, `tx_buf` at all only by ENCODE, SEND and
SEND_ACKED, the table only by SUBSCRIBE and UNSUBSCRIBE, the batch only by the wire frames, the correlation only by SEND_ACKED. -/
def Obligations.InstructionFrame : Prop :=
  ∀ (i : Instr) (s t : State), exec i s = .next t →
    t.rxLen = s.rxLen ∧ (∀ a, Memory.read t.rxBuf a = Memory.read s.rxBuf a) ∧ t.dispState = s.dispState ∧
    t.armGen = s.armGen ∧ t.cfg = s.cfg ∧ t.devPresent = s.devPresent ∧ t.agenda = s.agenda ∧ t.clock = s.clock ∧
    (∀ a, 25 ≤ a → Memory.read t.txBuf a = Memory.read s.txBuf a) ∧
    (match i with
      | .encode _ _ _ _ _ _ _ => t.connected = s.connected ∧ t.running = s.running ∧ t.stopReq = s.stopReq ∧
          t.rdState = s.rdState ∧ t.batch = s.batch ∧ t.subs = s.subs ∧ t.corr = s.corr ∧ t.outPort = s.outPort
      | .send _ _ _ _ _ _ _ => t.connected = s.connected ∧ t.running = s.running ∧ t.stopReq = s.stopReq ∧
          t.rdState = s.rdState ∧ t.batch = s.batch ∧ t.subs = s.subs ∧ t.corr = s.corr
      | .sendAcked _ _ _ _ _ _ _ => t.connected = s.connected ∧ t.running = s.running ∧ t.stopReq = s.stopReq ∧
          t.rdState = s.rdState ∧ t.batch = s.batch ∧ t.subs = s.subs
      | .subscribe _ _ _ _ _ => t.connected = s.connected ∧ t.running = s.running ∧ t.stopReq = s.stopReq ∧
          t.rdState = s.rdState ∧ t.batch = s.batch ∧ t.corr = s.corr ∧ t.outPort = s.outPort ∧
          ∀ a, Memory.read t.txBuf a = Memory.read s.txBuf a
      | .unsubscribe _ _ _ _ _ => t.connected = s.connected ∧ t.running = s.running ∧ t.stopReq = s.stopReq ∧
          t.rdState = s.rdState ∧ t.batch = s.batch ∧ t.corr = s.corr ∧ t.outPort = s.outPort ∧
          ∀ a, Memory.read t.txBuf a = Memory.read s.txBuf a
      | .dataFrame _ _ _ _ _ _ _ => t = { s with batch := t.batch }
      | .ackFrame _ _ _ _ _ _ _ => t = { s with batch := t.batch }
      | .connect _ => t = { s with out := t.out }
      | .start _ => t = { s with out := t.out, cmdState := .idle, running := t.running, stopReq := t.stopReq
                                 rdState := t.rdState }
      | .stop _ => t = { s with out := t.out, cmdState := t.cmdState, stopReq := t.stopReq, connected := t.connected }
      | .disconnect _ => t = { s with out := t.out, cmdState := t.cmdState, stopReq := t.stopReq, connected := t.connected }
      | .status _ => t = { s with out := t.out, cmdState := .idle }
      | .decode _ _ => t = { s with out := t.out, cmdState := .idle }
      | .checksum _ _ => t = { s with out := t.out, cmdState := .idle })

/-- 10_state.md R42: `connected` rises only when CONNECT is answered OK with the device present, and falls only when DISCONNECT or STOP
ends, or by reset. -/
def Obligations.ConnectedWrittenOnlyByLifecycle : Prop :=
  ∀ s t : State, step s = .next t →
    (s.connected = false → t.connected = true →
      s.devPresent = true ∧ (takeMove s).1 = .usbOpened (opensIssued s.out) true ∧
        ∃ d tag, s.cmdState = .exec d ∧ decodeDescriptor d = .ok (.connect tag)) ∧
    (s.connected = true → t.connected = false →
      (takeMove s).1 = .assertReset ∨
      ∃ d tag, (s.cmdState = .exec d ∨ (takeMove s).1 = .descriptor d) ∧
        (decodeDescriptor d = .ok (.stop tag) ∨ decodeDescriptor d = .ok (.disconnect tag)) ∧ s.running = false ∧
        t.cmdState = .idle)
end

