-- ==== Sys2Proof/Laws/Table.lean ====
section
/-!
SUPPORT. What the ordered tables and the byte buffers do: a lookup after an update, the canonical form, and the bytes read back
after a write.
-/

namespace Sys2Proof.Machine

variable {κ ν : Type} (code : κ → Nat)

theorem tableFind_congr {k k' : κ} (h : code k = code k') (m : List (κ × ν)) : tableFind code k m = tableFind code k' m := by
  induction m with
  | nil => rfl
  | cons p m ih => simp [tableFind, h, ih]

@[simp] theorem tableFind_insert_same (k : κ) (v : ν) (m : List (κ × ν)) :
    tableFind code k (tableInsert code k v m) = some v := by
  induction m with
  | nil => simp [tableInsert, tableFind]
  | cons p m ih =>
    simp only [tableInsert]
    split
    · simp [tableFind]
    · split
      · simp [tableFind]
      · simp [tableFind, *]

theorem tableFind_insert_other {k k' : κ} (h : code k' ≠ code k) (v : ν) (m : List (κ × ν)) :
    tableFind code k' (tableInsert code k v m) = tableFind code k' m := by
  induction m with
  | nil => simp [tableInsert, tableFind, h]
  | cons p m ih =>
    simp only [tableInsert]
    split
    · simp [tableFind, h]
    · split
      · rename_i h1
        simp [tableFind, h, h1 ▸ h]
      · simp [tableFind, ih]

/-- Every key after the head has a larger code. -/
theorem tableOrdered_cons {p : κ × ν} {m : List (κ × ν)} :
    tableOrdered code (p :: m) = true ↔ (∀ q ∈ m, code p.1 < code q.1) ∧ tableOrdered code m = true := by
  induction m generalizing p with
  | nil => simp [tableOrdered]
  | cons a m ih =>
    simp only [tableOrdered, Bool.and_eq_true, decide_eq_true_eq, List.mem_cons, forall_eq_or_imp]
    constructor
    · rintro ⟨h1, h2⟩
      exact ⟨⟨h1, fun q hq => Nat.lt_trans h1 ((ih.mp h2).1 q hq)⟩, h2⟩
    · rintro ⟨⟨h1, -⟩, h2⟩
      exact ⟨h1, h2⟩

theorem tableFind_none_of_lt {k : κ} {m : List (κ × ν)} (h : ∀ q ∈ m, code k < code q.1) : tableFind code k m = none := by
  induction m with
  | nil => rfl
  | cons a m ih =>
    have ha := h a (by simp)
    simp [tableFind, Nat.ne_of_lt ha, ih fun q hq => h q (by simp [hq])]

theorem mem_tableInsert {k : κ} {v : ν} {m : List (κ × ν)} {q : κ × ν} (h : q ∈ tableInsert code k v m) :
    q = (k, v) ∨ q ∈ m := by
  induction m with
  | nil => simpa [tableInsert] using h
  | cons a m ih =>
    simp only [tableInsert] at h
    split at h
    · simpa using h
    · split at h
      · rcases List.mem_cons.mp h with h | h
        · exact .inl h
        · exact .inr (by simp [h])
      · rcases List.mem_cons.mp h with h | h
        · exact .inr (by simp [h])
        · rcases ih h with h | h
          · exact .inl h
          · exact .inr (by simp [h])

theorem mem_tableErase {k : κ} {m : List (κ × ν)} {q : κ × ν} (h : q ∈ tableErase code k m) : q ∈ m := by
  induction m with
  | nil => simp [tableErase] at h
  | cons a m ih =>
    simp only [tableErase] at h
    split at h
    · simp [h]
    · rcases List.mem_cons.mp h with h | h
      · simp [h]
      · simp [ih h]

theorem tableOrdered_insert (k : κ) (v : ν) {m : List (κ × ν)} (h : tableOrdered code m = true) :
    tableOrdered code (tableInsert code k v m) = true := by
  induction m with
  | nil => rfl
  | cons a m ih =>
    obtain ⟨h1, h2⟩ := (tableOrdered_cons code).mp h
    simp only [tableInsert]
    split
    · rename_i hk
      refine (tableOrdered_cons code).mpr ⟨?_, h⟩
      intro q hq
      rcases List.mem_cons.mp hq with rfl | hq
      · exact hk
      · exact Nat.lt_trans hk (h1 q hq)
    · split
      · rename_i hk
        exact (tableOrdered_cons code).mpr ⟨fun q hq => hk ▸ h1 q hq, h2⟩
      · refine (tableOrdered_cons code).mpr ⟨?_, ih h2⟩
        intro q hq
        rcases mem_tableInsert code hq with rfl | hq
        · show code a.1 < code k
          omega
        · exact h1 q hq

theorem tableOrdered_erase (k : κ) {m : List (κ × ν)} (h : tableOrdered code m = true) :
    tableOrdered code (tableErase code k m) = true := by
  induction m with
  | nil => rfl
  | cons a m ih =>
    obtain ⟨h1, h2⟩ := (tableOrdered_cons code).mp h
    simp only [tableErase]
    split
    · exact h2
    · exact (tableOrdered_cons code).mpr ⟨fun q hq => h1 q (mem_tableErase code hq), ih h2⟩

theorem tableFind_erase_other {k k' : κ} (h : code k' ≠ code k) (m : List (κ × ν)) :
    tableFind code k' (tableErase code k m) = tableFind code k' m := by
  induction m with
  | nil => rfl
  | cons a m ih =>
    simp only [tableErase]
    split
    · rename_i hk
      simp [tableFind, hk ▸ h]
    · simp [tableFind, ih]

theorem tableFind_erase_same {k : κ} {m : List (κ × ν)} (h : tableOrdered code m = true) :
    tableFind code k (tableErase code k m) = none := by
  induction m with
  | nil => rfl
  | cons a m ih =>
    obtain ⟨h1, h2⟩ := (tableOrdered_cons code).mp h
    simp only [tableErase]
    split
    · rename_i hk
      exact tableFind_none_of_lt code fun q hq => hk ▸ h1 q hq
    · rename_i hk
      simp [tableFind, hk, ih h2]

theorem mem_of_tableFind {k : κ} {m : List (κ × ν)} {v : ν} (h : tableFind code k m = some v) :
    ∃ k', code k = code k' ∧ (k', v) ∈ m := by
  induction m with
  | nil => simp [tableFind] at h
  | cons a m ih =>
    simp only [tableFind] at h
    split at h
    · rename_i hk
      exact ⟨a.1, hk, by simp [← Option.some.inj h]⟩
    · obtain ⟨k', h1, h2⟩ := ih h
      exact ⟨k', h1, by simp [h2]⟩

/-! ### Byte buffers -/

@[simp] theorem Memory.read_write_same (m : Memory) (a : Nat) (b : Byte) : Memory.read (Memory.write m a b) a = some b :=
  tableFind_insert_same id a b m

theorem Memory.read_write_other {a a' : Nat} (h : a' ≠ a) (m : Memory) (b : Byte) :
    Memory.read (Memory.write m a b) a' = Memory.read m a' :=
  tableFind_insert_other id h b m

/-- A byte buffer keeps its canonical form. -/
theorem Memory.wf_write {m : Memory} (h : Memory.wf m = true) (a : Nat) (b : Byte) : Memory.wf (Memory.write m a b) = true :=
  tableOrdered_insert id a b h

/-- A byte buffer keeps its canonical form. -/
theorem Memory.wf_writeBytes {m : Memory} (h : Memory.wf m = true) (a : Nat) (B : List Byte) :
    Memory.wf (Memory.writeBytes m a B) = true := by
  induction B generalizing m a with
  | nil => exact h
  | cons b B ih => exact ih (Memory.wf_write h a b) (a + 1)

theorem Memory.read_writeBytes_before {x a : Nat} (h : x < a) (m : Memory) (B : List Byte) :
    Memory.read (Memory.writeBytes m a B) x = Memory.read m x := by
  induction B generalizing m a with
  | nil => rfl
  | cons b B ih =>
    rw [Memory.writeBytes, ih (by omega)]
    exact Memory.read_write_other (by omega) m b

/-- MemWrite stores byte `x - a` at each offset `x` it covers and leaves every other offset alone. -/
theorem Memory.read_writeBytes (m : Memory) (a x : Nat) (B : List Byte) :
    Memory.read (Memory.writeBytes m a B) x = if a ≤ x then (B[x - a]?).or (Memory.read m x) else Memory.read m x := by
  induction B generalizing m a with
  | nil => simp [Memory.writeBytes]
  | cons b B ih =>
    rw [Memory.writeBytes, ih]
    rcases Nat.lt_trichotomy x a with h | rfl | h
    · rw [if_neg (by omega), if_neg (by omega)]
      exact Memory.read_write_other (by omega) m b
    · rw [if_neg (by omega), if_pos (by omega)]
      simp
    · rw [if_pos (by omega), if_pos (by omega), Memory.read_write_other (by omega)]
      have : x - a = (x - (a + 1)) + 1 := by omega
      simp [this]

theorem Memory.readBytes_eq_some {m : Memory} {a n : Nat} {B : List Byte} (hlen : B.length = n)
    (h : ∀ i, i < n → Memory.read m (a + i) = B[i]?) : Memory.readBytes m a n = some B := by
  induction n generalizing a B with
  | zero => simp [Memory.readBytes, List.length_eq_zero_iff.mp hlen]
  | succ n ih =>
    cases B with
    | nil => simp at hlen
    | cons b B =>
      have h0 : Memory.read m a = some b := by simpa using h 0 (by omega)
      have h1 : Memory.readBytes m (a + 1) n = some B := by
        refine ih (by simpa using hlen) fun i hi => ?_
        have := h (i + 1) (by omega)
        simpa [Nat.add_assoc, Nat.add_comm 1] using this
      simp [Memory.readBytes, h0, h1]

/-- MemRead inside what MemWrite has just stored gives that part back. -/
theorem memRead_writeBytes (m : Memory) (B : List Byte) {limit o n : Nat} (hl : o + n ≤ limit) (hB : o + n ≤ B.length) :
    memRead (Memory.writeBytes m 0 B) limit o n = some ((B.drop o).take n) := by
  rw [memRead, if_pos hl]
  refine Memory.readBytes_eq_some (by simp; omega) fun i hi => ?_
  rw [Memory.read_writeBytes]
  simp [hi, List.getElem?_eq_getElem (show o + i < B.length by omega)]

/-! ### The subscription table -/

/-- Two keys with one code are one key (10_state.md R50). -/
theorem Key.code_injective {k k' : Key} (h : k.code = k'.code) : k = k' := by
  have h1 := k.identifier.isLt
  have h2 := k'.identifier.isLt
  simp only [Key.code] at h
  have hi : k.identifier.toNat = k'.identifier.toNat := by omega
  have hm : k.marker.toNat = k'.marker.toNat := by omega
  cases k
  cases k'
  simp_all [BitVec.toNat_inj]

/-- What SUBSCRIBE and the arming do to the table (R300, R343). -/
theorem SubTable.find_register (t : SubTable) (k k' : Key) (e : Entry) :
    SubTable.find (SubTable.register t k e) k' =
      if k' = k then some (SubTable.listeners t k ++ [e]) else SubTable.find t k' := by
  split
  · rename_i h
    simp [h, SubTable.find, SubTable.register]
  · rename_i h
    exact tableFind_insert_other Key.code (fun hc => h (Key.code_injective hc)) _ _

/-- What UNSUBSCRIBE and the resolutions do to the table (R305, R306, R346). -/
theorem SubTable.find_unregister {t : SubTable} (ht : tableOrdered Key.code t = true) (k k' : Key) (h : Handle) :
    SubTable.find (SubTable.unregister t k h) k' =
      if k' = k then
        (SubTable.find t k).bind fun l =>
          match l.filter (fun e => decide (e.lid ≠ h)) with
          | [] => none
          | e :: l' => some (e :: l')
      else SubTable.find t k' := by
  rw [SubTable.unregister]
  split
  · rename_i hn
    split <;> simp_all
  · rename_i l hl
    rw [hl]
    split
    · rename_i hf
      split
      · rename_i hk
        simp only [hk, Option.bind_some, hf]
        exact tableFind_erase_same Key.code ht
      · rename_i hk
        exact tableFind_erase_other Key.code (fun hc => hk (Key.code_injective hc)) _
    · rename_i e l' hf
      split
      · rename_i hk
        simp only [hk, Option.bind_some, hf]
        exact tableFind_insert_same Key.code _ _ _
      · rename_i hk
        exact tableFind_insert_other Key.code (fun hc => hk (Key.code_injective hc)) _ _

/-- In a table in canonical order, the pairs listed are the ones found. -/
theorem SubTable.mem_iff_find {t : SubTable} (ht : tableOrdered Key.code t = true) (k : Key) (l : List Entry) :
    (k, l) ∈ t ↔ SubTable.find t k = some l := by
  constructor
  · intro h
    induction t with
    | nil => simp at h
    | cons a t ih =>
      obtain ⟨h1, h2⟩ := (tableOrdered_cons Key.code).mp ht
      rcases List.mem_cons.mp h with rfl | h
      · simp [SubTable.find, tableFind]
      · have hk : Key.code k ≠ Key.code a.1 := (h1 (k, l) h).ne'
        simpa [SubTable.find, tableFind, hk] using ih h2 h
  · intro h
    obtain ⟨k', h1, h2⟩ := mem_of_tableFind Key.code h
    rwa [Key.code_injective h1]

/-- SUBSCRIBE and the arming keep the canonical order. -/
theorem SubTable.ordered_register {t : SubTable} (ht : tableOrdered Key.code t = true) (k : Key) (e : Entry) :
    tableOrdered Key.code (SubTable.register t k e) = true := tableOrdered_insert Key.code _ _ ht

/-- UNSUBSCRIBE and the resolutions keep the canonical order. -/
theorem SubTable.ordered_unregister {t : SubTable} (ht : tableOrdered Key.code t = true) (k : Key) (h : Handle) :
    tableOrdered Key.code (SubTable.unregister t k h) = true := by
  rw [SubTable.unregister]
  split
  · exact ht
  · split
    · exact tableOrdered_erase Key.code _ ht
    · exact tableOrdered_insert Key.code _ _ ht

end Sys2Proof.Machine
end

