-- ==== Sys2Proof/Laws/Codec.lean ====
section
/-!
SUPPORT. The byte-order helpers undo each other, the fields of a wire frame read back, and what the codec builds has the right
length.
-/

namespace Sys2Proof

/-! ### Byte order (R13) -/

@[simp] theorem bytesLe16_length (v : Half) : (bytesLe16 v).length = 2 := rfl
@[simp] theorem bytesLe32_length (v : Word) : (bytesLe32 v).length = 4 := rfl

theorem extract_append_low {n : Nat} (x : BitVec n) (a : Byte) : (x ++ a).extractLsb' 0 8 = a := by
  apply BitVec.eq_of_getLsbD_eq
  intro i hi
  simp [BitVec.getLsbD_append, hi]

theorem extract_append_high {n : Nat} (x : BitVec n) (a : Byte) (o : Nat) :
    (x ++ a).extractLsb' (8 + o) 8 = x.extractLsb' o 8 := by
  apply BitVec.eq_of_getLsbD_eq
  intro i hi
  simp [BitVec.getLsbD_append, hi, show ¬ 8 + o + i < 8 by omega, show 8 + o + i - 8 = o + i by omega]

@[simp] theorem word16_extract (v : Half) : word16 (v.extractLsb' 0 8) (v.extractLsb' 8 8) = v := by
  show v.extractLsb' 8 8 ++ v.extractLsb' 0 8 = v
  rw [BitVec.extractLsb'_append_extractLsb'_eq_extractLsb' (by rfl)]
  simp

@[simp] theorem word32_extract (v : Word) :
    word32 (v.extractLsb' 0 8) (v.extractLsb' 8 8) (v.extractLsb' 16 8) (v.extractLsb' 24 8) = v := by
  show v.extractLsb' 24 8 ++ v.extractLsb' 16 8 ++ v.extractLsb' 8 8 ++ v.extractLsb' 0 8 = v
  rw [BitVec.extractLsb'_append_extractLsb'_eq_extractLsb' (by rfl),
    BitVec.extractLsb'_append_extractLsb'_eq_extractLsb' (by rfl),
    BitVec.extractLsb'_append_extractLsb'_eq_extractLsb' (by rfl)]
  simp

@[simp] theorem bytesLe16_word16 (a b : Byte) : bytesLe16 (word16 a b) = [a, b] := by
  have h0 : (word16 a b).extractLsb' 0 8 = a := extract_append_low b a
  have h1 : (word16 a b).extractLsb' 8 8 = b := (extract_append_high b a 0).trans (by simp)
  simp [bytesLe16, h0, h1]

@[simp] theorem bytesLe32_word32 (a b c d : Byte) : bytesLe32 (word32 a b c d) = [a, b, c, d] := by
  have h0 : (word32 a b c d).extractLsb' 0 8 = a := extract_append_low _ a
  have h1 : (word32 a b c d).extractLsb' 8 8 = b :=
    (extract_append_high (d ++ c ++ b) a 0).trans (extract_append_low _ b)
  have h2 : (word32 a b c d).extractLsb' 16 8 = c :=
    (extract_append_high (d ++ c ++ b) a 8).trans ((extract_append_high (d ++ c) b 0).trans (extract_append_low _ c))
  have h3 : (word32 a b c d).extractLsb' 24 8 = d :=
    (extract_append_high (d ++ c ++ b) a 16).trans
      ((extract_append_high (d ++ c) b 8).trans ((extract_append_high d c 0).trans (by simp)))
  simp [bytesLe32, h0, h1, h2, h3]

/-! ### Wire frames (R120, R121) -/

@[simp] theorem frameHead_length (marker : Half) (tick : Word) (node kind : Byte) (ident : Word) (len : Byte)
    (payload : List Byte) : (frameHead marker tick node kind ident len payload).length = 13 + payload.length := by
  simp [frameHead]
  omega

@[simp] theorem frameBytes_length (marker : Half) (tick : Word) (node kind : Byte) (ident : Word) (len : Byte)
    (payload : List Byte) (checksum : Word) :
    (frameBytes marker tick node kind ident len payload checksum).length = 17 + payload.length := by
  simp [frameBytes]
  omega

/-- Every field of a wire frame reads back from its offset (R121). -/
theorem frameBytes_fields (marker : Half) (tick : Word) (node kind : Byte) (ident : Word) (len : Byte) {payload : List Byte}
    (h : payload.length = 8) (checksum : Word) :
    let F := frameBytes marker tick node kind ident len payload checksum
    le16 F 0 = marker ∧ le32 F 2 = tick ∧ byteAt F 6 = node ∧ byteAt F 7 = kind ∧ le32 F 8 = ident ∧ byteAt F 12 = len ∧
      slice F 13 21 = payload ∧ le32 F 21 = checksum ∧
      slice F 0 21 = frameHead marker tick node kind ident len payload := by
  match payload, h with
  | [p0, p1, p2, p3, p4, p5, p6, p7], _ =>
    simp [frameBytes, frameHead, bytesLe16, bytesLe32, le16, le32, byteAt, slice]

/-- A 25-byte string is the frame of its own fields (R121). -/
theorem frameBytes_of_fields {F : List Byte} (h : F.length = 25) :
    frameBytes (le16 F 0) (le32 F 2) (byteAt F 6) (byteAt F 7) (le32 F 8) (byteAt F 12) (slice F 13 21) (le32 F 21) = F := by
  match F, h with
  | [a0, a1, a2, a3, a4, a5, a6, a7, a8, a9, a10, a11, a12, a13, a14, a15, a16, a17, a18, a19, a20, a21, a22, a23, a24], _ =>
    simp [frameBytes, frameHead, le16, le32, byteAt, slice]

end Sys2Proof

namespace Sys2Proof.Machine

@[simp] theorem payloadBytes_length (pcount : Byte) (payload : List Byte) : (payloadBytes pcount payload).length = 8 := by
  simp [payloadBytes]

/-- The frame ENCODE builds is the frame of its fields with the checksum of its head (R210). -/
theorem outboundFrame_eq (c : Config) (node kind : Byte) (ident : Word) (len pcount : Byte) (payload : List Byte) :
    outboundFrame c node kind ident len pcount payload =
      frameBytes markerData c.txTick node kind ident len (payloadBytes pcount payload)
        (crc32Ssb c.crcTable (frameHead markerData c.txTick node kind ident len (payloadBytes pcount payload))) := rfl

@[simp] theorem outboundFrame_length (c : Config) (node kind : Byte) (ident : Word) (len pcount : Byte) (payload : List Byte) :
    (outboundFrame c node kind ident len pcount payload).length = 25 := by
  simp [outboundFrame_eq]

/-- The OUT write carries the frame just stored, and never faults (R274). -/
theorem issueWrite_stored {s : State} {m : Memory} {F : List Byte} (h : F.length = 25)
    (hs : s.txBuf = Memory.writeBytes m 0 F) : issueWrite s = .next (emit (.usbWrite F) { s with outPort := .busy }) := by
  have hr : memRead s.txBuf frameLen 0 frameLen = some F := by
    rw [hs, memRead_writeBytes m F (by decide) (by rw [h]; decide)]
    simp [← h]
  simp [issueWrite, hr]

/-- One chunk of a transfer: decoded and appended to the batch if it is a valid frame, else dropped (R266, R230). -/
theorem receive_eq (chunk : List Byte) (s : State) : receive chunk s = .next (receiveChunk chunk s) := by
  unfold receive decodeFrame
  split
  · rename_i i hi
    split at hi
    · rename_i hlen
      split at hi
      · rename_i hm
        obtain rfl := Except.ok.inj hi
        have hF := frameBytes_of_fields hlen
        rw [hm] at hF
        simp [exec, execDataFrame, hF]
      · split at hi
        · rename_i hm
          obtain rfl := Except.ok.inj hi
          have hF := frameBytes_of_fields hlen
          rw [hm] at hF
          simp [exec, execAckFrame, hF]
        · cases hi
    · cases hi
  · rename_i hi
    split at hi
    · split at hi
      · cases hi
      · split at hi
        · cases hi
        · rename_i h1 h2 h3
          simp [receiveChunk, decodeBytes, h1, h2, h3]
    · rename_i h1
      simp [receiveChunk, decodeBytes, h1]

end Sys2Proof.Machine
end

