-- ==== Sys2Proof/Laws/Decode.lean ====
section
/-!
SUPPORT. What a successful decode says about the bytes: one lemma per descriptor format of 30_encoding.md R132, and that the command
decoder never yields a wire frame.
-/

namespace Sys2Proof

theorem decodeFormatH_ok {mk : Byte → Instr} {r : List Byte} {i : Instr} (h : decodeFormatH mk r = .ok i) :
    ∃ tag, r = [tag] ∧ i = mk tag := by
  unfold decodeFormatH at h
  split at h
  · exact ⟨_, rfl, (Except.ok.inj h).symm⟩
  · cases h

theorem decodeFormatF_ok {mk : Byte → Byte → Byte → Word → Byte → Byte → List Byte → Instr} {r : List Byte} {i : Instr}
    (h : decodeFormatF mk r = .ok i) :
    ∃ tag node kind i0 i1 i2 i3 len pcount payload,
      r = tag :: node :: kind :: i0 :: i1 :: i2 :: i3 :: len :: pcount :: payload ∧ payload.length = 8 ∧
      i = mk tag node kind (word32 i0 i1 i2 i3) len pcount payload := by
  unfold decodeFormatF at h
  split at h
  · split at h
    · exact ⟨_, _, _, _, _, _, _, _, _, _, rfl, ‹_›, (Except.ok.inj h).symm⟩
    · cases h
  · cases h

theorem decodeFormatD_ok {mk : Byte → List Byte → Instr} {r : List Byte} {i : Instr} (h : decodeFormatD mk r = .ok i) :
    ∃ tag blen bytes, r = tag :: blen :: bytes ∧ bytes.length = blen.toNat ∧ i = mk tag bytes := by
  unfold decodeFormatD at h
  split at h
  · split at h
    · exact ⟨_, _, _, rfl, ‹_›, (Except.ok.inj h).symm⟩
    · cases h
  · cases h

theorem decodeFormatC_ok {mk : Byte → List Byte → Instr} {r : List Byte} {i : Instr} (h : decodeFormatC mk r = .ok i) :
    ∃ tag data, r = tag :: data ∧ data.length = 21 ∧ i = mk tag data := by
  unfold decodeFormatC at h
  split at h
  · split at h
    · exact ⟨_, _, rfl, ‹_›, (Except.ok.inj h).symm⟩
    · cases h
  · cases h

theorem decodeFormatS_ok {mk : Byte → Word → Half → Half → Byte → Instr} {r : List Byte} {i : Instr}
    (h : decodeFormatS mk r = .ok i) :
    ∃ tag i0 i1 i2 i3 m0 m1 l0 l1 mode, r = [tag, i0, i1, i2, i3, m0, m1, l0, l1, mode] ∧
      i = mk tag (word32 i0 i1 i2 i3) (word16 m0 m1) (word16 l0 l1) mode := by
  unfold decodeFormatS at h
  split at h
  · exact ⟨_, _, _, _, _, _, _, _, _, _, rfl, (Except.ok.inj h).symm⟩
  · cases h

/-- One level of the opcode map. -/
theorem ok_of_ite {c : Prop} [Decidable c] {a b : Except DecodeError Instr} {i : Instr} (h : (if c then a else b) = .ok i) :
    (c ∧ a = .ok i) ∨ b = .ok i := by
  by_cases hc : c
  · exact .inl ⟨hc, by rwa [if_pos hc] at h⟩
  · exact .inr (by rwa [if_neg hc] at h)

/-- The opcode map read backwards (R131): a descriptor that decodes has one of the twelve opcodes and that opcode's format. -/
theorem decodeDescriptor_ok {opc : Byte} {r : List Byte} {i : Instr} (h : decodeDescriptor (opc :: r) = .ok i) :
    (opc = opcConnect ∧ decodeFormatH .connect r = .ok i) ∨ (opc = opcDisconnect ∧ decodeFormatH .disconnect r = .ok i) ∨
    (opc = opcStart ∧ decodeFormatH .start r = .ok i) ∨ (opc = opcStop ∧ decodeFormatH .stop r = .ok i) ∨
    (opc = opcStatus ∧ decodeFormatH .status r = .ok i) ∨ (opc = opcEncode ∧ decodeFormatF .encode r = .ok i) ∨
    (opc = opcDecode ∧ decodeFormatD .decode r = .ok i) ∨ (opc = opcChecksum ∧ decodeFormatC .checksum r = .ok i) ∨
    (opc = opcSend ∧ decodeFormatF .send r = .ok i) ∨ (opc = opcSendAcked ∧ decodeFormatF .sendAcked r = .ok i) ∨
    (opc = opcSubscribe ∧ decodeFormatS .subscribe r = .ok i) ∨
    (opc = opcUnsubscribe ∧ decodeFormatS .unsubscribe r = .ok i) := by
  rw [decodeDescriptor] at h
  refine (ok_of_ite h).imp_right fun h => (ok_of_ite h).imp_right fun h => (ok_of_ite h).imp_right fun h => ?_
  refine (ok_of_ite h).imp_right fun h => (ok_of_ite h).imp_right fun h => (ok_of_ite h).imp_right fun h => ?_
  refine (ok_of_ite h).imp_right fun h => (ok_of_ite h).imp_right fun h => (ok_of_ite h).imp_right fun h => ?_
  refine (ok_of_ite h).imp_right fun h => (ok_of_ite h).imp_right fun h => (ok_of_ite h).resolve_right ?_
  exact fun hc => nomatch hc

/-- The command port never yields a wire frame. -/
theorem decodeDescriptor_not_onWire {d : List Byte} {i : Instr} (h : decodeDescriptor d = .ok i) : i.onWire = false := by
  cases d with
  | nil => cases h
  | cons opc r =>
    rcases decodeDescriptor_ok h with
      ⟨-, h⟩ | ⟨-, h⟩ | ⟨-, h⟩ | ⟨-, h⟩ | ⟨-, h⟩ | ⟨-, h⟩ | ⟨-, h⟩ | ⟨-, h⟩ | ⟨-, h⟩ | ⟨-, h⟩ | ⟨-, h⟩ | ⟨-, h⟩
    all_goals first
      | (obtain ⟨_, _, rfl⟩ := decodeFormatH_ok h; rfl)
      | (obtain ⟨_, _, _, _, _, _, _, _, _, _, _, _, rfl⟩ := decodeFormatF_ok h; rfl)
      | (obtain ⟨_, _, _, _, _, rfl⟩ := decodeFormatD_ok h; rfl)
      | (obtain ⟨_, _, _, _, rfl⟩ := decodeFormatC_ok h; rfl)
      | (obtain ⟨_, _, _, _, _, _, _, _, _, _, _, rfl⟩ := decodeFormatS_ok h; rfl)

end Sys2Proof
end

