-- ==== Sys2Proof/Laws/State.lean ====
section
/-!
SUPPORT. One lemma per field of State per shared update, so that no proof unfolds a record update.
-/

namespace Sys2Proof.Machine

/-! ### emit -/

@[simp] theorem emit_cfg (e : OutEvent) (s : State) : (emit e s).cfg = s.cfg := rfl
@[simp] theorem emit_cmdState (e : OutEvent) (s : State) : (emit e s).cmdState = s.cmdState := rfl
@[simp] theorem emit_connected (e : OutEvent) (s : State) : (emit e s).connected = s.connected := rfl
@[simp] theorem emit_running (e : OutEvent) (s : State) : (emit e s).running = s.running := rfl
@[simp] theorem emit_stopReq (e : OutEvent) (s : State) : (emit e s).stopReq = s.stopReq := rfl
@[simp] theorem emit_rdState (e : OutEvent) (s : State) : (emit e s).rdState = s.rdState := rfl
@[simp] theorem emit_rxBuf (e : OutEvent) (s : State) : (emit e s).rxBuf = s.rxBuf := rfl
@[simp] theorem emit_rxLen (e : OutEvent) (s : State) : (emit e s).rxLen = s.rxLen := rfl
@[simp] theorem emit_batch (e : OutEvent) (s : State) : (emit e s).batch = s.batch := rfl
@[simp] theorem emit_txBuf (e : OutEvent) (s : State) : (emit e s).txBuf = s.txBuf := rfl
@[simp] theorem emit_subs (e : OutEvent) (s : State) : (emit e s).subs = s.subs := rfl
@[simp] theorem emit_dispState (e : OutEvent) (s : State) : (emit e s).dispState = s.dispState := rfl
@[simp] theorem emit_corr (e : OutEvent) (s : State) : (emit e s).corr = s.corr := rfl
@[simp] theorem emit_armGen (e : OutEvent) (s : State) : (emit e s).armGen = s.armGen := rfl
@[simp] theorem emit_outPort (e : OutEvent) (s : State) : (emit e s).outPort = s.outPort := rfl
@[simp] theorem emit_devPresent (e : OutEvent) (s : State) : (emit e s).devPresent = s.devPresent := rfl
@[simp] theorem emit_out (e : OutEvent) (s : State) : (emit e s).out = s.out ++ [e] := rfl
@[simp] theorem emit_agenda (e : OutEvent) (s : State) : (emit e s).agenda = s.agenda := rfl
@[simp] theorem emit_clock (e : OutEvent) (s : State) : (emit e s).clock = s.clock := rfl

/-! ### The numbers of the transactions -/

@[simp] theorem opensIssued_append (a b : List OutEvent) : opensIssued (a ++ b) = opensIssued a + opensIssued b :=
  List.countP_append
@[simp] theorem readsIssued_append (a b : List OutEvent) : readsIssued (a ++ b) = readsIssued a + readsIssued b :=
  List.countP_append
@[simp] theorem writesIssued_append (a b : List OutEvent) : writesIssued (a ++ b) = writesIssued a + writesIssued b :=
  List.countP_append
@[simp] theorem deliveriesTo_append (n : Half) (a b : List OutEvent) :
    deliveriesTo n (a ++ b) = deliveriesTo n a + deliveriesTo n b := List.countP_append

@[simp] theorem opensIssued_open (v p i : Nat) : opensIssued [.usbOpen v p i] = 1 := rfl
@[simp] theorem readsIssued_read (n ms : Nat) : readsIssued [.usbRead n ms] = 1 := rfl
@[simp] theorem writesIssued_write (F : List Byte) : writesIssued [.usbWrite F] = 1 := rfl

/-- A longer log has issued at least as much. -/
theorem opensIssued_mono {a b : List OutEvent} (h : a <+: b) : opensIssued a ≤ opensIssued b := h.sublist.countP_le
theorem readsIssued_mono {a b : List OutEvent} (h : a <+: b) : readsIssued a ≤ readsIssued b := h.sublist.countP_le
theorem writesIssued_mono {a b : List OutEvent} (h : a <+: b) : writesIssued a ≤ writesIssued b := h.sublist.countP_le
theorem deliveriesTo_mono {n : Half} {a b : List OutEvent} (h : a <+: b) : deliveriesTo n a ≤ deliveriesTo n b :=
  h.sublist.countP_le

/-- A log with a delivery to a listener has made one. -/
theorem deliveriesTo_pos {n : Half} {f : DecodedFrame} {a : List OutEvent} (h : .deliver (.ext n) f ∈ a) :
    0 < deliveriesTo n a := List.countP_pos_iff.mpr ⟨_, h, by simp [OutEvent.isDeliveryTo]⟩

/-! ### emitAll -/

@[simp] theorem emitAll_cfg (es : List OutEvent) (s : State) : (emitAll es s).cfg = s.cfg := rfl
@[simp] theorem emitAll_cmdState (es : List OutEvent) (s : State) : (emitAll es s).cmdState = s.cmdState := rfl
@[simp] theorem emitAll_connected (es : List OutEvent) (s : State) : (emitAll es s).connected = s.connected := rfl
@[simp] theorem emitAll_running (es : List OutEvent) (s : State) : (emitAll es s).running = s.running := rfl
@[simp] theorem emitAll_stopReq (es : List OutEvent) (s : State) : (emitAll es s).stopReq = s.stopReq := rfl
@[simp] theorem emitAll_rdState (es : List OutEvent) (s : State) : (emitAll es s).rdState = s.rdState := rfl
@[simp] theorem emitAll_rxBuf (es : List OutEvent) (s : State) : (emitAll es s).rxBuf = s.rxBuf := rfl
@[simp] theorem emitAll_rxLen (es : List OutEvent) (s : State) : (emitAll es s).rxLen = s.rxLen := rfl
@[simp] theorem emitAll_batch (es : List OutEvent) (s : State) : (emitAll es s).batch = s.batch := rfl
@[simp] theorem emitAll_txBuf (es : List OutEvent) (s : State) : (emitAll es s).txBuf = s.txBuf := rfl
@[simp] theorem emitAll_subs (es : List OutEvent) (s : State) : (emitAll es s).subs = s.subs := rfl
@[simp] theorem emitAll_dispState (es : List OutEvent) (s : State) : (emitAll es s).dispState = s.dispState := rfl
@[simp] theorem emitAll_corr (es : List OutEvent) (s : State) : (emitAll es s).corr = s.corr := rfl
@[simp] theorem emitAll_armGen (es : List OutEvent) (s : State) : (emitAll es s).armGen = s.armGen := rfl
@[simp] theorem emitAll_outPort (es : List OutEvent) (s : State) : (emitAll es s).outPort = s.outPort := rfl
@[simp] theorem emitAll_devPresent (es : List OutEvent) (s : State) : (emitAll es s).devPresent = s.devPresent := rfl
@[simp] theorem emitAll_out (es : List OutEvent) (s : State) : (emitAll es s).out = s.out ++ es := rfl
@[simp] theorem emitAll_agenda (es : List OutEvent) (s : State) : (emitAll es s).agenda = s.agenda := rfl
@[simp] theorem emitAll_clock (es : List OutEvent) (s : State) : (emitAll es s).clock = s.clock := rfl

/-! ### answer -/

@[simp] theorem answer_cfg (o g : Byte) (st : Status) (d : List Byte) (s : State) : (answer o g st d s).cfg = s.cfg := rfl
@[simp] theorem answer_cmdState (o g : Byte) (st : Status) (d : List Byte) (s : State) : (answer o g st d s).cmdState = s.cmdState := rfl
@[simp] theorem answer_connected (o g : Byte) (st : Status) (d : List Byte) (s : State) : (answer o g st d s).connected = s.connected := rfl
@[simp] theorem answer_running (o g : Byte) (st : Status) (d : List Byte) (s : State) : (answer o g st d s).running = s.running := rfl
@[simp] theorem answer_stopReq (o g : Byte) (st : Status) (d : List Byte) (s : State) : (answer o g st d s).stopReq = s.stopReq := rfl
@[simp] theorem answer_rdState (o g : Byte) (st : Status) (d : List Byte) (s : State) : (answer o g st d s).rdState = s.rdState := rfl
@[simp] theorem answer_rxBuf (o g : Byte) (st : Status) (d : List Byte) (s : State) : (answer o g st d s).rxBuf = s.rxBuf := rfl
@[simp] theorem answer_rxLen (o g : Byte) (st : Status) (d : List Byte) (s : State) : (answer o g st d s).rxLen = s.rxLen := rfl
@[simp] theorem answer_batch (o g : Byte) (st : Status) (d : List Byte) (s : State) : (answer o g st d s).batch = s.batch := rfl
@[simp] theorem answer_txBuf (o g : Byte) (st : Status) (d : List Byte) (s : State) : (answer o g st d s).txBuf = s.txBuf := rfl
@[simp] theorem answer_subs (o g : Byte) (st : Status) (d : List Byte) (s : State) : (answer o g st d s).subs = s.subs := rfl
@[simp] theorem answer_dispState (o g : Byte) (st : Status) (d : List Byte) (s : State) : (answer o g st d s).dispState = s.dispState := rfl
@[simp] theorem answer_corr (o g : Byte) (st : Status) (d : List Byte) (s : State) : (answer o g st d s).corr = s.corr := rfl
@[simp] theorem answer_armGen (o g : Byte) (st : Status) (d : List Byte) (s : State) : (answer o g st d s).armGen = s.armGen := rfl
@[simp] theorem answer_outPort (o g : Byte) (st : Status) (d : List Byte) (s : State) : (answer o g st d s).outPort = s.outPort := rfl
@[simp] theorem answer_devPresent (o g : Byte) (st : Status) (d : List Byte) (s : State) : (answer o g st d s).devPresent = s.devPresent := rfl
@[simp] theorem answer_out (o g : Byte) (st : Status) (d : List Byte) (s : State) : (answer o g st d s).out = s.out ++ [.response (responseBytes o g st d)] := rfl
@[simp] theorem answer_agenda (o g : Byte) (st : Status) (d : List Byte) (s : State) : (answer o g st d s).agenda = s.agenda := rfl
@[simp] theorem answer_clock (o g : Byte) (st : Status) (d : List Byte) (s : State) : (answer o g st d s).clock = s.clock := rfl

/-! ### respond -/

@[simp] theorem respond_cfg (o g : Byte) (st : Status) (d : List Byte) (s : State) : (respond o g st d s).cfg = s.cfg := rfl
@[simp] theorem respond_cmdState (o g : Byte) (st : Status) (d : List Byte) (s : State) : (respond o g st d s).cmdState = .idle := rfl
@[simp] theorem respond_connected (o g : Byte) (st : Status) (d : List Byte) (s : State) : (respond o g st d s).connected = s.connected := rfl
@[simp] theorem respond_running (o g : Byte) (st : Status) (d : List Byte) (s : State) : (respond o g st d s).running = s.running := rfl
@[simp] theorem respond_stopReq (o g : Byte) (st : Status) (d : List Byte) (s : State) : (respond o g st d s).stopReq = s.stopReq := rfl
@[simp] theorem respond_rdState (o g : Byte) (st : Status) (d : List Byte) (s : State) : (respond o g st d s).rdState = s.rdState := rfl
@[simp] theorem respond_rxBuf (o g : Byte) (st : Status) (d : List Byte) (s : State) : (respond o g st d s).rxBuf = s.rxBuf := rfl
@[simp] theorem respond_rxLen (o g : Byte) (st : Status) (d : List Byte) (s : State) : (respond o g st d s).rxLen = s.rxLen := rfl
@[simp] theorem respond_batch (o g : Byte) (st : Status) (d : List Byte) (s : State) : (respond o g st d s).batch = s.batch := rfl
@[simp] theorem respond_txBuf (o g : Byte) (st : Status) (d : List Byte) (s : State) : (respond o g st d s).txBuf = s.txBuf := rfl
@[simp] theorem respond_subs (o g : Byte) (st : Status) (d : List Byte) (s : State) : (respond o g st d s).subs = s.subs := rfl
@[simp] theorem respond_dispState (o g : Byte) (st : Status) (d : List Byte) (s : State) : (respond o g st d s).dispState = s.dispState := rfl
@[simp] theorem respond_corr (o g : Byte) (st : Status) (d : List Byte) (s : State) : (respond o g st d s).corr = s.corr := rfl
@[simp] theorem respond_armGen (o g : Byte) (st : Status) (d : List Byte) (s : State) : (respond o g st d s).armGen = s.armGen := rfl
@[simp] theorem respond_outPort (o g : Byte) (st : Status) (d : List Byte) (s : State) : (respond o g st d s).outPort = s.outPort := rfl
@[simp] theorem respond_devPresent (o g : Byte) (st : Status) (d : List Byte) (s : State) : (respond o g st d s).devPresent = s.devPresent := rfl
@[simp] theorem respond_out (o g : Byte) (st : Status) (d : List Byte) (s : State) : (respond o g st d s).out = s.out ++ [.response (responseBytes o g st d)] := rfl
@[simp] theorem respond_agenda (o g : Byte) (st : Status) (d : List Byte) (s : State) : (respond o g st d s).agenda = s.agenda := rfl
@[simp] theorem respond_clock (o g : Byte) (st : Status) (d : List Byte) (s : State) : (respond o g st d s).clock = s.clock := rfl

/-! ### raise -/

@[simp] theorem raise_cfg (o g : Byte) (st : Status) (s : State) : (raise o g st s).cfg = s.cfg := rfl
@[simp] theorem raise_cmdState (o g : Byte) (st : Status) (s : State) : (raise o g st s).cmdState = .idle := rfl
@[simp] theorem raise_connected (o g : Byte) (st : Status) (s : State) : (raise o g st s).connected = s.connected := rfl
@[simp] theorem raise_running (o g : Byte) (st : Status) (s : State) : (raise o g st s).running = s.running := rfl
@[simp] theorem raise_stopReq (o g : Byte) (st : Status) (s : State) : (raise o g st s).stopReq = s.stopReq := rfl
@[simp] theorem raise_rdState (o g : Byte) (st : Status) (s : State) : (raise o g st s).rdState = s.rdState := rfl
@[simp] theorem raise_rxBuf (o g : Byte) (st : Status) (s : State) : (raise o g st s).rxBuf = s.rxBuf := rfl
@[simp] theorem raise_rxLen (o g : Byte) (st : Status) (s : State) : (raise o g st s).rxLen = s.rxLen := rfl
@[simp] theorem raise_batch (o g : Byte) (st : Status) (s : State) : (raise o g st s).batch = s.batch := rfl
@[simp] theorem raise_txBuf (o g : Byte) (st : Status) (s : State) : (raise o g st s).txBuf = s.txBuf := rfl
@[simp] theorem raise_subs (o g : Byte) (st : Status) (s : State) : (raise o g st s).subs = s.subs := rfl
@[simp] theorem raise_dispState (o g : Byte) (st : Status) (s : State) : (raise o g st s).dispState = s.dispState := rfl
@[simp] theorem raise_corr (o g : Byte) (st : Status) (s : State) : (raise o g st s).corr = s.corr := rfl
@[simp] theorem raise_armGen (o g : Byte) (st : Status) (s : State) : (raise o g st s).armGen = s.armGen := rfl
@[simp] theorem raise_outPort (o g : Byte) (st : Status) (s : State) : (raise o g st s).outPort = s.outPort := rfl
@[simp] theorem raise_devPresent (o g : Byte) (st : Status) (s : State) : (raise o g st s).devPresent = s.devPresent := rfl
@[simp] theorem raise_out (o g : Byte) (st : Status) (s : State) : (raise o g st s).out = s.out ++ [.response (responseBytes o g st [])] := rfl
@[simp] theorem raise_agenda (o g : Byte) (st : Status) (s : State) : (raise o g st s).agenda = s.agenda := rfl
@[simp] theorem raise_clock (o g : Byte) (st : Status) (s : State) : (raise o g st s).clock = s.clock := rfl

/-! ### storeFrame -/

@[simp] theorem storeFrame_cfg (F : List Byte) (s : State) : (storeFrame F s).cfg = s.cfg := rfl
@[simp] theorem storeFrame_cmdState (F : List Byte) (s : State) : (storeFrame F s).cmdState = s.cmdState := rfl
@[simp] theorem storeFrame_connected (F : List Byte) (s : State) : (storeFrame F s).connected = s.connected := rfl
@[simp] theorem storeFrame_running (F : List Byte) (s : State) : (storeFrame F s).running = s.running := rfl
@[simp] theorem storeFrame_stopReq (F : List Byte) (s : State) : (storeFrame F s).stopReq = s.stopReq := rfl
@[simp] theorem storeFrame_rdState (F : List Byte) (s : State) : (storeFrame F s).rdState = s.rdState := rfl
@[simp] theorem storeFrame_rxBuf (F : List Byte) (s : State) : (storeFrame F s).rxBuf = s.rxBuf := rfl
@[simp] theorem storeFrame_rxLen (F : List Byte) (s : State) : (storeFrame F s).rxLen = s.rxLen := rfl
@[simp] theorem storeFrame_batch (F : List Byte) (s : State) : (storeFrame F s).batch = s.batch := rfl
@[simp] theorem storeFrame_txBuf (F : List Byte) (s : State) : (storeFrame F s).txBuf = Memory.writeBytes s.txBuf 0 F := rfl
@[simp] theorem storeFrame_subs (F : List Byte) (s : State) : (storeFrame F s).subs = s.subs := rfl
@[simp] theorem storeFrame_dispState (F : List Byte) (s : State) : (storeFrame F s).dispState = s.dispState := rfl
@[simp] theorem storeFrame_corr (F : List Byte) (s : State) : (storeFrame F s).corr = s.corr := rfl
@[simp] theorem storeFrame_armGen (F : List Byte) (s : State) : (storeFrame F s).armGen = s.armGen := rfl
@[simp] theorem storeFrame_outPort (F : List Byte) (s : State) : (storeFrame F s).outPort = s.outPort := rfl
@[simp] theorem storeFrame_devPresent (F : List Byte) (s : State) : (storeFrame F s).devPresent = s.devPresent := rfl
@[simp] theorem storeFrame_out (F : List Byte) (s : State) : (storeFrame F s).out = s.out := rfl
@[simp] theorem storeFrame_agenda (F : List Byte) (s : State) : (storeFrame F s).agenda = s.agenda := rfl
@[simp] theorem storeFrame_clock (F : List Byte) (s : State) : (storeFrame F s).clock = s.clock := rfl

end Sys2Proof.Machine
end

