-- ==== Sys2Proof/Laws/Engine.lean ====
section
/-!
SUPPORT. What the engines' shared operations do: one lemma per field of State per update, the deframe step as a whole, and which
of the dispatch engine's lookups finds which entry.
-/

namespace Sys2Proof.Machine

/-! ### disconnectNow -/

@[simp] theorem disconnectNow_cfg (o g : Byte) (s : State) : (disconnectNow o g s).cfg = s.cfg := rfl
@[simp] theorem disconnectNow_cmdState (o g : Byte) (s : State) : (disconnectNow o g s).cmdState = .idle := rfl
@[simp] theorem disconnectNow_connected (o g : Byte) (s : State) : (disconnectNow o g s).connected = false := rfl
@[simp] theorem disconnectNow_running (o g : Byte) (s : State) : (disconnectNow o g s).running = s.running := rfl
@[simp] theorem disconnectNow_stopReq (o g : Byte) (s : State) : (disconnectNow o g s).stopReq = s.stopReq := rfl
@[simp] theorem disconnectNow_rdState (o g : Byte) (s : State) : (disconnectNow o g s).rdState = s.rdState := rfl
@[simp] theorem disconnectNow_rxBuf (o g : Byte) (s : State) : (disconnectNow o g s).rxBuf = s.rxBuf := rfl
@[simp] theorem disconnectNow_rxLen (o g : Byte) (s : State) : (disconnectNow o g s).rxLen = s.rxLen := rfl
@[simp] theorem disconnectNow_batch (o g : Byte) (s : State) : (disconnectNow o g s).batch = s.batch := rfl
@[simp] theorem disconnectNow_txBuf (o g : Byte) (s : State) : (disconnectNow o g s).txBuf = s.txBuf := rfl
@[simp] theorem disconnectNow_subs (o g : Byte) (s : State) : (disconnectNow o g s).subs = s.subs := rfl
@[simp] theorem disconnectNow_dispState (o g : Byte) (s : State) : (disconnectNow o g s).dispState = s.dispState := rfl
@[simp] theorem disconnectNow_corr (o g : Byte) (s : State) : (disconnectNow o g s).corr = s.corr := rfl
@[simp] theorem disconnectNow_armGen (o g : Byte) (s : State) : (disconnectNow o g s).armGen = s.armGen := rfl
@[simp] theorem disconnectNow_outPort (o g : Byte) (s : State) : (disconnectNow o g s).outPort = s.outPort := rfl
@[simp] theorem disconnectNow_devPresent (o g : Byte) (s : State) : (disconnectNow o g s).devPresent = s.devPresent := rfl
@[simp] theorem disconnectNow_out (o g : Byte) (s : State) : (disconnectNow o g s).out = s.out ++ [.response (responseBytes o g .ok [])] := rfl
@[simp] theorem disconnectNow_agenda (o g : Byte) (s : State) : (disconnectNow o g s).agenda = s.agenda := rfl
@[simp] theorem disconnectNow_clock (o g : Byte) (s : State) : (disconnectNow o g s).clock = s.clock := rfl

/-! ### loadTransfer -/

@[simp] theorem loadTransfer_cfg (T : List Byte) (s : State) : (loadTransfer T s).cfg = s.cfg := rfl
@[simp] theorem loadTransfer_cmdState (T : List Byte) (s : State) : (loadTransfer T s).cmdState = s.cmdState := rfl
@[simp] theorem loadTransfer_connected (T : List Byte) (s : State) : (loadTransfer T s).connected = s.connected := rfl
@[simp] theorem loadTransfer_running (T : List Byte) (s : State) : (loadTransfer T s).running = s.running := rfl
@[simp] theorem loadTransfer_stopReq (T : List Byte) (s : State) : (loadTransfer T s).stopReq = s.stopReq := rfl
@[simp] theorem loadTransfer_rdState (T : List Byte) (s : State) : (loadTransfer T s).rdState = s.rdState := rfl
@[simp] theorem loadTransfer_rxBuf (T : List Byte) (s : State) : (loadTransfer T s).rxBuf = Memory.writeBytes s.rxBuf 0 T := rfl
@[simp] theorem loadTransfer_rxLen (T : List Byte) (s : State) : (loadTransfer T s).rxLen = T.length := rfl
@[simp] theorem loadTransfer_batch (T : List Byte) (s : State) : (loadTransfer T s).batch = [] := rfl
@[simp] theorem loadTransfer_txBuf (T : List Byte) (s : State) : (loadTransfer T s).txBuf = s.txBuf := rfl
@[simp] theorem loadTransfer_subs (T : List Byte) (s : State) : (loadTransfer T s).subs = s.subs := rfl
@[simp] theorem loadTransfer_dispState (T : List Byte) (s : State) : (loadTransfer T s).dispState = s.dispState := rfl
@[simp] theorem loadTransfer_corr (T : List Byte) (s : State) : (loadTransfer T s).corr = s.corr := rfl
@[simp] theorem loadTransfer_armGen (T : List Byte) (s : State) : (loadTransfer T s).armGen = s.armGen := rfl
@[simp] theorem loadTransfer_outPort (T : List Byte) (s : State) : (loadTransfer T s).outPort = s.outPort := rfl
@[simp] theorem loadTransfer_devPresent (T : List Byte) (s : State) : (loadTransfer T s).devPresent = s.devPresent := rfl
@[simp] theorem loadTransfer_out (T : List Byte) (s : State) : (loadTransfer T s).out = s.out := rfl
@[simp] theorem loadTransfer_agenda (T : List Byte) (s : State) : (loadTransfer T s).agenda = s.agenda := rfl
@[simp] theorem loadTransfer_clock (T : List Byte) (s : State) : (loadTransfer T s).clock = s.clock := rfl

/-! ### endDeframe -/

@[simp] theorem endDeframe_cfg (s : State) : (endDeframe s).cfg = s.cfg := rfl
@[simp] theorem endDeframe_cmdState (s : State) : (endDeframe s).cmdState = s.cmdState := rfl
@[simp] theorem endDeframe_connected (s : State) : (endDeframe s).connected = s.connected := rfl
@[simp] theorem endDeframe_running (s : State) : (endDeframe s).running = s.running := rfl
@[simp] theorem endDeframe_stopReq (s : State) : (endDeframe s).stopReq = s.stopReq := rfl
@[simp] theorem endDeframe_rdState (s : State) : (endDeframe s).rdState = if s.batch = [] then .idle else .dispatching := rfl
@[simp] theorem endDeframe_rxBuf (s : State) : (endDeframe s).rxBuf = s.rxBuf := rfl
@[simp] theorem endDeframe_rxLen (s : State) : (endDeframe s).rxLen = s.rxLen := rfl
@[simp] theorem endDeframe_batch (s : State) : (endDeframe s).batch = s.batch := rfl
@[simp] theorem endDeframe_txBuf (s : State) : (endDeframe s).txBuf = s.txBuf := rfl
@[simp] theorem endDeframe_subs (s : State) : (endDeframe s).subs = s.subs := rfl
@[simp] theorem endDeframe_dispState (s : State) : (endDeframe s).dispState = s.dispState := rfl
@[simp] theorem endDeframe_corr (s : State) : (endDeframe s).corr = s.corr := rfl
@[simp] theorem endDeframe_armGen (s : State) : (endDeframe s).armGen = s.armGen := rfl
@[simp] theorem endDeframe_outPort (s : State) : (endDeframe s).outPort = s.outPort := rfl
@[simp] theorem endDeframe_devPresent (s : State) : (endDeframe s).devPresent = s.devPresent := rfl
@[simp] theorem endDeframe_out (s : State) : (endDeframe s).out = s.out := rfl
@[simp] theorem endDeframe_agenda (s : State) : (endDeframe s).agenda = s.agenda := rfl
@[simp] theorem endDeframe_clock (s : State) : (endDeframe s).clock = s.clock := rfl

/-! ### endLoop -/

@[simp] theorem endLoop_cfg (s : State) : (endLoop s).cfg = s.cfg := rfl
@[simp] theorem endLoop_cmdState (s : State) : (endLoop s).cmdState = s.cmdState := rfl
@[simp] theorem endLoop_connected (s : State) : (endLoop s).connected = s.connected := rfl
@[simp] theorem endLoop_running (s : State) : (endLoop s).running = false := rfl
@[simp] theorem endLoop_stopReq (s : State) : (endLoop s).stopReq = false := rfl
@[simp] theorem endLoop_rdState (s : State) : (endLoop s).rdState = .idle := rfl
@[simp] theorem endLoop_rxBuf (s : State) : (endLoop s).rxBuf = s.rxBuf := rfl
@[simp] theorem endLoop_rxLen (s : State) : (endLoop s).rxLen = s.rxLen := rfl
@[simp] theorem endLoop_batch (s : State) : (endLoop s).batch = s.batch := rfl
@[simp] theorem endLoop_txBuf (s : State) : (endLoop s).txBuf = s.txBuf := rfl
@[simp] theorem endLoop_subs (s : State) : (endLoop s).subs = s.subs := rfl
@[simp] theorem endLoop_dispState (s : State) : (endLoop s).dispState = s.dispState := rfl
@[simp] theorem endLoop_corr (s : State) : (endLoop s).corr = s.corr := rfl
@[simp] theorem endLoop_armGen (s : State) : (endLoop s).armGen = s.armGen := rfl
@[simp] theorem endLoop_outPort (s : State) : (endLoop s).outPort = s.outPort := rfl
@[simp] theorem endLoop_devPresent (s : State) : (endLoop s).devPresent = s.devPresent := rfl
@[simp] theorem endLoop_out (s : State) : (endLoop s).out = s.out := rfl
@[simp] theorem endLoop_agenda (s : State) : (endLoop s).agenda = s.agenda := rfl
@[simp] theorem endLoop_clock (s : State) : (endLoop s).clock = s.clock := rfl

/-! ### awaitAll -/

@[simp] theorem awaitAll_cfg (f : DecodedFrame) (w : List Handle) (s : State) : (awaitAll f w s).cfg = s.cfg := rfl
@[simp] theorem awaitAll_cmdState (f : DecodedFrame) (w : List Handle) (s : State) : (awaitAll f w s).cmdState = s.cmdState := rfl
@[simp] theorem awaitAll_connected (f : DecodedFrame) (w : List Handle) (s : State) : (awaitAll f w s).connected = s.connected := rfl
@[simp] theorem awaitAll_running (f : DecodedFrame) (w : List Handle) (s : State) : (awaitAll f w s).running = s.running := rfl
@[simp] theorem awaitAll_stopReq (f : DecodedFrame) (w : List Handle) (s : State) : (awaitAll f w s).stopReq = s.stopReq := rfl
@[simp] theorem awaitAll_rdState (f : DecodedFrame) (w : List Handle) (s : State) : (awaitAll f w s).rdState = s.rdState := rfl
@[simp] theorem awaitAll_rxBuf (f : DecodedFrame) (w : List Handle) (s : State) : (awaitAll f w s).rxBuf = s.rxBuf := rfl
@[simp] theorem awaitAll_rxLen (f : DecodedFrame) (w : List Handle) (s : State) : (awaitAll f w s).rxLen = s.rxLen := rfl
@[simp] theorem awaitAll_batch (f : DecodedFrame) (w : List Handle) (s : State) : (awaitAll f w s).batch = s.batch := rfl
@[simp] theorem awaitAll_txBuf (f : DecodedFrame) (w : List Handle) (s : State) : (awaitAll f w s).txBuf = s.txBuf := rfl
@[simp] theorem awaitAll_subs (f : DecodedFrame) (w : List Handle) (s : State) : (awaitAll f w s).subs = s.subs := rfl
@[simp] theorem awaitAll_dispState (f : DecodedFrame) (w : List Handle) (s : State) : (awaitAll f w s).dispState = if w = [] then .idle else .async f w := rfl
@[simp] theorem awaitAll_corr (f : DecodedFrame) (w : List Handle) (s : State) : (awaitAll f w s).corr = s.corr := rfl
@[simp] theorem awaitAll_armGen (f : DecodedFrame) (w : List Handle) (s : State) : (awaitAll f w s).armGen = s.armGen := rfl
@[simp] theorem awaitAll_outPort (f : DecodedFrame) (w : List Handle) (s : State) : (awaitAll f w s).outPort = s.outPort := rfl
@[simp] theorem awaitAll_devPresent (f : DecodedFrame) (w : List Handle) (s : State) : (awaitAll f w s).devPresent = s.devPresent := rfl
@[simp] theorem awaitAll_out (f : DecodedFrame) (w : List Handle) (s : State) : (awaitAll f w s).out = s.out := rfl
@[simp] theorem awaitAll_agenda (f : DecodedFrame) (w : List Handle) (s : State) : (awaitAll f w s).agenda = s.agenda := rfl
@[simp] theorem awaitAll_clock (f : DecodedFrame) (w : List Handle) (s : State) : (awaitAll f w s).clock = s.clock := rfl

/-! ### arm -/

@[simp] theorem arm_cfg (c : Correlation) (s : State) : (arm c s).cfg = s.cfg := rfl
@[simp] theorem arm_cmdState (c : Correlation) (s : State) : (arm c s).cmdState = .idle := rfl
@[simp] theorem arm_connected (c : Correlation) (s : State) : (arm c s).connected = s.connected := rfl
@[simp] theorem arm_running (c : Correlation) (s : State) : (arm c s).running = s.running := rfl
@[simp] theorem arm_stopReq (c : Correlation) (s : State) : (arm c s).stopReq = s.stopReq := rfl
@[simp] theorem arm_rdState (c : Correlation) (s : State) : (arm c s).rdState = s.rdState := rfl
@[simp] theorem arm_rxBuf (c : Correlation) (s : State) : (arm c s).rxBuf = s.rxBuf := rfl
@[simp] theorem arm_rxLen (c : Correlation) (s : State) : (arm c s).rxLen = s.rxLen := rfl
@[simp] theorem arm_batch (c : Correlation) (s : State) : (arm c s).batch = s.batch := rfl
@[simp] theorem arm_txBuf (c : Correlation) (s : State) : (arm c s).txBuf = s.txBuf := rfl
@[simp] theorem arm_subs (c : Correlation) (s : State) : (arm c s).subs = SubTable.register s.subs (ackKey c.identifier) { lid := .int s.armGen, mode := .sync } := rfl
@[simp] theorem arm_dispState (c : Correlation) (s : State) : (arm c s).dispState = s.dispState := rfl
@[simp] theorem arm_corr (c : Correlation) (s : State) : (arm c s).corr = .armed { c with gen := s.armGen, pollsLeft := ackPolls s.cfg, captured := none } := rfl
@[simp] theorem arm_armGen (c : Correlation) (s : State) : (arm c s).armGen = s.armGen + 1 := rfl
@[simp] theorem arm_outPort (c : Correlation) (s : State) : (arm c s).outPort = s.outPort := rfl
@[simp] theorem arm_devPresent (c : Correlation) (s : State) : (arm c s).devPresent = s.devPresent := rfl
@[simp] theorem arm_out (c : Correlation) (s : State) : (arm c s).out = s.out := rfl
@[simp] theorem arm_agenda (c : Correlation) (s : State) : (arm c s).agenda = s.agenda := rfl
@[simp] theorem arm_clock (c : Correlation) (s : State) : (arm c s).clock = s.clock := rfl

/-! ### resolve -/

@[simp] theorem resolve_cfg (c : Correlation) (st : Status) (d : List Byte) (s : State) : (resolve c st d s).cfg = s.cfg := rfl
@[simp] theorem resolve_cmdState (c : Correlation) (st : Status) (d : List Byte) (s : State) : (resolve c st d s).cmdState = s.cmdState := rfl
@[simp] theorem resolve_connected (c : Correlation) (st : Status) (d : List Byte) (s : State) : (resolve c st d s).connected = s.connected := rfl
@[simp] theorem resolve_running (c : Correlation) (st : Status) (d : List Byte) (s : State) : (resolve c st d s).running = s.running := rfl
@[simp] theorem resolve_stopReq (c : Correlation) (st : Status) (d : List Byte) (s : State) : (resolve c st d s).stopReq = s.stopReq := rfl
@[simp] theorem resolve_rdState (c : Correlation) (st : Status) (d : List Byte) (s : State) : (resolve c st d s).rdState = s.rdState := rfl
@[simp] theorem resolve_rxBuf (c : Correlation) (st : Status) (d : List Byte) (s : State) : (resolve c st d s).rxBuf = s.rxBuf := rfl
@[simp] theorem resolve_rxLen (c : Correlation) (st : Status) (d : List Byte) (s : State) : (resolve c st d s).rxLen = s.rxLen := rfl
@[simp] theorem resolve_batch (c : Correlation) (st : Status) (d : List Byte) (s : State) : (resolve c st d s).batch = s.batch := rfl
@[simp] theorem resolve_txBuf (c : Correlation) (st : Status) (d : List Byte) (s : State) : (resolve c st d s).txBuf = s.txBuf := rfl
@[simp] theorem resolve_subs (c : Correlation) (st : Status) (d : List Byte) (s : State) : (resolve c st d s).subs = SubTable.unregister s.subs (ackKey c.identifier) (.int c.gen) := rfl
@[simp] theorem resolve_dispState (c : Correlation) (st : Status) (d : List Byte) (s : State) : (resolve c st d s).dispState = s.dispState := rfl
@[simp] theorem resolve_corr (c : Correlation) (st : Status) (d : List Byte) (s : State) : (resolve c st d s).corr = .idle := rfl
@[simp] theorem resolve_armGen (c : Correlation) (st : Status) (d : List Byte) (s : State) : (resolve c st d s).armGen = s.armGen := rfl
@[simp] theorem resolve_outPort (c : Correlation) (st : Status) (d : List Byte) (s : State) : (resolve c st d s).outPort = s.outPort := rfl
@[simp] theorem resolve_devPresent (c : Correlation) (st : Status) (d : List Byte) (s : State) : (resolve c st d s).devPresent = s.devPresent := rfl
@[simp] theorem resolve_out (c : Correlation) (st : Status) (d : List Byte) (s : State) : (resolve c st d s).out = s.out ++ [.response (responseBytes opcSendAcked c.tag st d)] := rfl
@[simp] theorem resolve_agenda (c : Correlation) (st : Status) (d : List Byte) (s : State) : (resolve c st d s).agenda = s.agenda := rfl
@[simp] theorem resolve_clock (c : Correlation) (st : Status) (d : List Byte) (s : State) : (resolve c st d s).clock = s.clock := rfl

/-! ### The deframe step (R266) -/

theorem receiveChunk_eq (chunk : List Byte) (s : State) :
    receiveChunk chunk s = { s with batch := s.batch ++ (decodeBytes s.cfg chunk).toOption.toList } := by
  unfold receiveChunk
  cases decodeBytes s.cfg chunk <;> simp [Except.toOption]

/-- The chunks with numbers `cs`, read from a buffer that holds `T`, give their valid frames in order. -/
theorem deframeChunks_eq {T : List Byte} {m : Memory} (cs : List Nat) (s : State) (hcs : ∀ c ∈ cs, 25 * c < T.length)
    (hb : s.rxBuf = Memory.writeBytes m 0 T) (hl : s.rxLen = T.length) :
    deframeChunks cs s =
      .next { s with batch := s.batch ++
                cs.filterMap fun c => (decodeBytes s.cfg (slice T (25 * c) (25 * c + 25))).toOption } := by
  induction cs generalizing s with
  | nil => simp [deframeChunks]
  | cons c cs ih =>
    have hc : 25 * c < T.length := hcs c (by simp)
    have hr : memRead s.rxBuf s.rxLen (25 * c) (min 25 (s.rxLen - 25 * c)) = some (slice T (25 * c) (25 * c + 25)) := by
      rw [hb, hl, memRead_writeBytes m T (by omega) (by omega)]
      simp only [slice, Nat.add_sub_cancel_left, Option.some.injEq]
      rw [← List.length_drop, List.take_eq_take_iff]
      simp
    have hrx := receive_eq (slice T (25 * c) (25 * c + 25)) s
    rw [receiveChunk_eq] at hrx
    simp only [deframeChunks, hr, hrx, Result.andThen]
    refine (ih _ (fun c' h' => hcs c' (by simp [h'])) ?_ ?_).trans ?_
    · exact hb
    · exact hl
    cases hd : decodeBytes s.cfg (slice T (25 * c) (25 * c + 25)) <;> simp [Except.toOption, hd]

/-- The deframe step (R266): the valid frames of the transfer's 25-byte chunks, in order; it never faults. -/
theorem deframe_eq (T : List Byte) (s : State) :
    deframe T s =
      .next (endDeframe
        { loadTransfer T s with
          batch := (List.range (chunkCount T.length)).filterMap fun c =>
            (decodeBytes s.cfg (slice T (25 * c) (25 * c + 25))).toOption }) := by
  have h : ∀ c ∈ List.range (chunkCount T.length), 25 * c < T.length := by
    intro c hc
    simp only [List.mem_range, chunkCount, frameLen] at hc
    omega
  rw [deframe, deframeChunks_eq (m := s.rxBuf) _ _ h rfl rfl]
  simp [Result.andThen]

/-! ### Lookups of the dispatch engine (R313) -/

theorem firstSync_some {l : List Entry} {i j : Nat} {e : Entry} (h : firstSync l i = some (j, e)) :
    i ≤ j ∧ l[j - i]? = some e ∧ e.mode = .sync := by
  induction l generalizing i with
  | nil => simp [firstSync] at h
  | cons a l ih =>
    simp only [firstSync] at h
    split at h
    · rename_i ha
      obtain ⟨rfl, rfl⟩ := Prod.mk.inj (Option.some.inj h)
      simp [ha]
    · obtain ⟨h1, h2, h3⟩ := ih h
      refine ⟨by omega, ?_, h3⟩
      rw [show j - i = (j - (i + 1)) + 1 by omega]
      simpa using h2

/-- The entry found is one of the list, synchronous, at its index (R313). -/
theorem nextSync_some {l : List Entry} {k j : Nat} {e : Entry} (h : nextSync l k = some (j, e)) :
    k ≤ j ∧ l[j]? = some e ∧ e.mode = .sync := by
  obtain ⟨h1, h2, h3⟩ := firstSync_some h
  refine ⟨h1, ?_, h3⟩
  rw [List.getElem?_drop] at h2
  rwa [show k + (j - k) = j by omega] at h2

theorem firstSync_first {l : List Entry} {i j : Nat} {e : Entry} (h : firstSync l i = some (j, e)) :
    ∀ n x, n < j - i → l[n]? = some x → x.mode = .async := by
  induction l generalizing i with
  | nil => simp [firstSync] at h
  | cons a l ih =>
    simp only [firstSync] at h
    split at h
    · obtain ⟨rfl, rfl⟩ := Prod.mk.inj (Option.some.inj h)
      intro n x hn
      omega
    · rename_i ha
      intro n x hn hx
      cases n with
      | zero =>
        obtain rfl : a = x := by simpa using hx
        exact ha
      | succ n =>
        exact ih h n x (by omega) (by simpa using hx)

/-- It is the first one: every entry passed over is asynchronous (R313). -/
theorem nextSync_first {l : List Entry} {k j : Nat} {e : Entry} (h : nextSync l k = some (j, e)) :
    ∀ i x, k ≤ i → i < j → l[i]? = some x → x.mode = .async := by
  intro i x hk hj hx
  refine firstSync_first h (i - k) x (by omega) ?_
  rw [List.getElem?_drop]
  rwa [show k + (i - k) = i by omega]

theorem firstSync_eq {l : List Entry} {i j : Nat} {e : Entry} (hj : l[j]? = some e) (he : e.mode = .sync)
    (hp : ∀ n x, n < j → l[n]? = some x → x.mode = .async) : firstSync l i = some (i + j, e) := by
  induction l generalizing i j with
  | nil => simp at hj
  | cons a l ih =>
    cases j with
    | zero =>
      obtain rfl : a = e := by simpa using hj
      simp [firstSync, he]
    | succ j =>
      simp only [firstSync, hp 0 a (by omega) (by simp)]
      rw [ih (j := j) (by simpa using hj) fun n x hn hx => hp (n + 1) x (by omega) (by simpa using hx)]
      congr 2
      omega

/-- An entry that is synchronous, with only asynchronous ones from `k` up to it, is the one found (R313). -/
theorem nextSync_eq {l : List Entry} {k j : Nat} {e : Entry} (hk : k ≤ j) (hj : l[j]? = some e) (he : e.mode = .sync)
    (hp : ∀ i x, k ≤ i → i < j → l[i]? = some x → x.mode = .async) : nextSync l k = some (j, e) := by
  rw [nextSync, firstSync_eq (j := j - k) _ he]
  · congr 2
    omega
  · intro n x hn hx
    rw [List.getElem?_drop] at hx
    exact hp (k + n) x (by omega) (by omega) hx
  · rwa [List.getElem?_drop, show k + (j - k) = j by omega]

/-- The three outcomes of a descriptor's first part that can fault are one: the OUT write never faults (R274). -/
theorem issueWrite_storeFrame (F : List Byte) (s : State) (h : F.length = 25) :
    issueWrite (storeFrame F s) = .next (emit (.usbWrite F) { storeFrame F s with outPort := .busy }) :=
  issueWrite_stored h rfl

end Sys2Proof.Machine
end

