-- ==== Sys2Proof/Laws/Exec.lean ====
section
/-!
SUPPORT. Everything an instruction can do, said once: the shapes of the next state of `exec`, which every invariant and every frame
can be read from without unfolding a meaning.
-/

namespace Sys2Proof.Machine

/-- The shapes of the state an instruction leaves. -/
inductive ExecShape (s : State) : Instr → State → Prop where
  /-- A command that ends at once and writes nothing else. -/
  | responds (i : Instr) (o g : Byte) (st : Status) (d : List Byte) (hw : i.onWire = false)
    (hi : ∀ t, i ≠ .connect t ∧ i ≠ .disconnect t ∧ i ≠ .stop t) :
    ExecShape s i (respond o g st d s)
  /-- ENCODE, and SEND and SEND_ACKED without a link: the frame stands in `tx_buf`. -/
  | stores (i : Instr) (o g : Byte) (st : Status) (d F : List Byte) (hF : F.length = 25)
    (hi : (∃ t n k x l p b, i = .encode t n k x l p b) ∨ (∃ t n k x l p b, i = .send t n k x l p b) ∨
      ∃ t n k x l p b, i = .sendAcked t n k x l p b) :
    ExecShape s i (respond o g st d (storeFrame F s))
  /-- SEND with its OUT write issued. -/
  | sends (t n k : Byte) (x : Word) (l p : Byte) (b F : List Byte) (hF : F.length = 25) :
    ExecShape s (.send t n k x l p b) (emit (.usbWrite F) { storeFrame F s with outPort := .busy })
  /-- SEND_ACKED with its OUT write issued and its correlation WRITING. -/
  | sendsAcked (t n k : Byte) (x : Word) (l p : Byte) (b F : List Byte) (hF : F.length = 25) (hc : s.corr = .idle) :
    ExecShape s (.sendAcked t n k x l p b)
      (emit (.usbWrite F)
        { storeFrame F s with
          corr := .writing { tag := t, identifier := x, gen := 0, pollsLeft := ackPolls s.cfg, captured := none }
          outPort := .busy })
  /-- CONNECT with its `usb_open` asked. -/
  | connects (t : Byte) : ExecShape s (.connect t) (emit (.usbOpen Config.usbVid Config.usbPid 1) s)
  /-- STOP or DISCONNECT with the loop running. -/
  | asksStop (i : Instr) (hr : s.running = true) (hi : (∃ t, i = .stop t) ∨ ∃ t, i = .disconnect t) :
    ExecShape s i { s with stopReq := true }
  /-- STOP or DISCONNECT without a loop. -/
  | disconnects (i : Instr) (o g : Byte) (hr : s.running = false) (hi : (∃ t, i = .stop t) ∨ ∃ t, i = .disconnect t) :
    ExecShape s i (disconnectNow o g s)
  /-- START of the loop. -/
  | starts (t : Byte) (hl : linkUp s = true) (hr : s.running = false) :
    ExecShape s (.start t) (respond opcStart t .ok [] { s with running := true, stopReq := false, rdState := .idle })
  /-- SUBSCRIBE of a new listener. -/
  | registers (t : Byte) (x : Word) (m lid : Half) (md : Byte)
    (hd : ∀ e ∈ SubTable.listeners s.subs { marker := m, identifier := x }, e.lid ≠ .ext lid) :
    ExecShape s (.subscribe t x m lid md)
      (respond opcSubscribe t .ok []
        { s with subs := SubTable.register s.subs { marker := m, identifier := x } { lid := .ext lid, mode := listenModeOf md } })
  /-- UNSUBSCRIBE. -/
  | unregisters (t : Byte) (x : Word) (m lid : Half) (md : Byte) :
    ExecShape s (.unsubscribe t x m lid md)
      (respond opcUnsubscribe t .ok []
        { s with subs := SubTable.unregister s.subs { marker := m, identifier := x } (.ext lid) })
  /-- A wire frame. -/
  | receives (i : Instr) (hw : i.onWire = true) : ExecShape s i (receiveChunk (encode i) s)

/-- Where the arguments pass, the frame has 25 bytes (R210). -/
theorem encodeFrame_some_length {c : Config} {n k : Byte} {x : Word} {l p : Byte} {b F : List Byte}
    (h : encodeFrame c n k x l p b = some F) : F.length = 25 := by
  unfold encodeFrame at h
  split at h
  · rw [← Option.some.inj h]
    exact outboundFrame_length ..
  · cases h

/-- Every instruction completes, in one of the shapes. -/
theorem exec_shape (i : Instr) (s : State) : ∃ t, exec i s = .next t ∧ ExecShape s i t := by
  cases i with
  | connect tag => exact ⟨_, rfl, .connects tag⟩
  | disconnect tag =>
    refine ⟨_, rfl, ?_⟩
    unfold stopProcedure
    split
    · exact .asksStop _ ‹_› (.inr ⟨_, rfl⟩)
    · exact .disconnects _ _ _ (Bool.eq_false_iff.mpr ‹_›) (.inr ⟨_, rfl⟩)
  | stop tag =>
    refine ⟨_, rfl, ?_⟩
    unfold stopProcedure
    split
    · exact .asksStop _ ‹_› (.inl ⟨_, rfl⟩)
    · exact .disconnects _ _ _ (Bool.eq_false_iff.mpr ‹_›) (.inl ⟨_, rfl⟩)
  | start tag =>
    simp only [exec, execStart]
    split
    · split
      · exact ⟨_, rfl, .responds _ _ _ _ _ rfl fun _ => ⟨nofun, nofun, nofun⟩⟩
      · exact ⟨_, rfl, .starts _ ‹_› (Bool.eq_false_iff.mpr ‹_›)⟩
    · exact ⟨_, rfl, .responds _ _ _ _ _ rfl fun _ => ⟨nofun, nofun, nofun⟩⟩
  | status tag => exact ⟨_, rfl, .responds _ _ _ _ _ rfl fun _ => ⟨nofun, nofun, nofun⟩⟩
  | checksum tag data => exact ⟨_, rfl, .responds _ _ _ _ _ rfl fun _ => ⟨nofun, nofun, nofun⟩⟩
  | decode tag B =>
    simp only [exec, execDecode]
    split
    · exact ⟨_, rfl, .responds _ _ _ _ _ rfl fun _ => ⟨nofun, nofun, nofun⟩⟩
    · exact ⟨_, rfl, .responds _ _ _ _ _ rfl fun _ => ⟨nofun, nofun, nofun⟩⟩
  | encode tag n k x l p b =>
    simp only [exec, execEncode]
    split
    · exact ⟨_, rfl, .responds _ _ _ _ _ rfl fun _ => ⟨nofun, nofun, nofun⟩⟩
    · exact ⟨_, rfl, .stores _ _ _ _ _ _ (encodeFrame_some_length ‹_›) (.inl ⟨_, _, _, _, _, _, _, rfl⟩)⟩
  | send tag n k x l p b =>
    simp only [exec, execSend]
    split
    · exact ⟨_, rfl, .responds _ _ _ _ _ rfl fun _ => ⟨nofun, nofun, nofun⟩⟩
    · have hF := encodeFrame_some_length ‹_›
      split
      · exact ⟨_, issueWrite_storeFrame _ s hF, .sends _ _ _ _ _ _ _ _ hF⟩
      · exact ⟨_, rfl, .stores _ _ _ _ _ _ hF (.inr (.inl ⟨_, _, _, _, _, _, _, rfl⟩))⟩
  | sendAcked tag n k x l p b =>
    simp only [exec, execSendAcked]
    split
    · exact ⟨_, rfl, .responds _ _ _ _ _ rfl fun _ => ⟨nofun, nofun, nofun⟩⟩
    · have hc : s.corr = .idle := Decidable.byContradiction fun hn => ‹¬ corrBusy s = true› (decide_eq_true hn)
      split
      · exact ⟨_, rfl, .responds _ _ _ _ _ rfl fun _ => ⟨nofun, nofun, nofun⟩⟩
      · have hF := encodeFrame_some_length ‹_›
        split
        · exact ⟨_, issueWrite_stored hF rfl, .sendsAcked _ _ _ _ _ _ _ _ hF hc⟩
        · exact ⟨_, rfl, .stores _ _ _ _ _ _ hF (.inr (.inr ⟨_, _, _, _, _, _, _, rfl⟩))⟩
  | subscribe tag x m lid md =>
    simp only [exec, execSubscribe]
    split
    · exact ⟨_, rfl, .responds _ _ _ _ _ rfl fun _ => ⟨nofun, nofun, nofun⟩⟩
    · split
      · exact ⟨_, rfl, .responds _ _ _ _ _ rfl fun _ => ⟨nofun, nofun, nofun⟩⟩
      · rename_i hd
        split
        · exact ⟨_, rfl, .responds _ _ _ _ _ rfl fun _ => ⟨nofun, nofun, nofun⟩⟩
        · split
          · exact ⟨_, rfl, .responds _ _ _ _ _ rfl fun _ => ⟨nofun, nofun, nofun⟩⟩
          · exact ⟨_, rfl, .registers _ _ _ _ _ (by simpa using hd)⟩
  | unsubscribe tag x m lid md =>
    simp only [exec, execUnsubscribe]
    split
    · exact ⟨_, rfl, .unregisters _ _ _ _ _⟩
    · exact ⟨_, rfl, .responds _ _ _ _ _ rfl fun _ => ⟨nofun, nofun, nofun⟩⟩
  | dataFrame t n k x l p c => exact ⟨_, rfl, .receives _ rfl⟩
  | ackFrame t n k x l p c => exact ⟨_, rfl, .receives _ rfl⟩

/-- The same, read from an answer. -/
theorem shape_of_exec {i : Instr} {s t : State} (h : exec i s = .next t) : ExecShape s i t := by
  obtain ⟨t', h1, h2⟩ := exec_shape i s
  rw [h1] at h
  obtain rfl := Host.Outcome.next.inj h
  exact h2

end Sys2Proof.Machine
end

