-- ==== Sys2Proof/Laws/PerInstr.lean ====
section
/-!
SUPPORT. Statements for all instructions, made per instruction. EncodedLength: the encoding of a well-formed instruction has the
length its port asks of it: 25 bytes on the wire (30_encoding.md R120), the length of its opcode on the command port (R131, R132).
-/

namespace Sys2Proof.Laws.EncodedLength

/-- A well-formed instruction is encoded in the length its port asks for. -/
def Statement (i : Instr) : Prop :=
  i.wellFormed = true →
    (encode i).length = if i.onWire then frameLen else descriptorLength (encode i)

theorem connect (tag : Byte) : Statement (.connect tag) := fun _ => rfl

theorem disconnect (tag : Byte) : Statement (.disconnect tag) := fun _ => rfl

theorem start (tag : Byte) : Statement (.start tag) := fun _ => rfl

theorem stop (tag : Byte) : Statement (.stop tag) := fun _ => rfl

theorem status (tag : Byte) : Statement (.status tag) := fun _ => rfl

theorem encode (tag node kind : Byte) (ident : Word) (len pcount : Byte) (payload : List Byte) :
    Statement (.encode tag node kind ident len pcount payload) := by
  intro h
  have h : payload.length = 8 := by simpa [Instr.wellFormed] using h
  simp [Sys2Proof.encode, encodeFormatF, bytesLe32, descriptorLength, byteAt, Instr.onWire, h]

theorem decode (tag : Byte) (bytes : List Byte) : Statement (.decode tag bytes) := by
  intro h
  have h : bytes.length < 256 := by simpa [Instr.wellFormed] using h
  simp [Sys2Proof.encode, descriptorLength, byteAt, Instr.onWire]
  omega

theorem checksum (tag : Byte) (data : List Byte) : Statement (.checksum tag data) := by
  intro h
  have h : data.length = 21 := by simpa [Instr.wellFormed] using h
  simp [Sys2Proof.encode, descriptorLength, byteAt, Instr.onWire, h]

theorem send (tag node kind : Byte) (ident : Word) (len pcount : Byte) (payload : List Byte) :
    Statement (.send tag node kind ident len pcount payload) := by
  intro h
  have h : payload.length = 8 := by simpa [Instr.wellFormed] using h
  simp [Sys2Proof.encode, encodeFormatF, bytesLe32, descriptorLength, byteAt, Instr.onWire, h]

theorem sendAcked (tag node kind : Byte) (ident : Word) (len pcount : Byte) (payload : List Byte) :
    Statement (.sendAcked tag node kind ident len pcount payload) := by
  intro h
  have h : payload.length = 8 := by simpa [Instr.wellFormed] using h
  simp [Sys2Proof.encode, encodeFormatF, bytesLe32, descriptorLength, byteAt, Instr.onWire, h]

theorem subscribe (tag : Byte) (ident : Word) (marker lid : Half) (mode : Byte) :
    Statement (.subscribe tag ident marker lid mode) := fun _ => rfl

theorem unsubscribe (tag : Byte) (ident : Word) (marker lid : Half) (mode : Byte) :
    Statement (.unsubscribe tag ident marker lid mode) := fun _ => rfl

theorem dataFrame (tick : Word) (node kind : Byte) (ident : Word) (len : Byte) (payload : List Byte) (checksum : Word) :
    Statement (.dataFrame tick node kind ident len payload checksum) := by
  intro h
  have h : payload.length = 8 := by simpa [Instr.wellFormed] using h
  simp [Sys2Proof.encode, Instr.onWire, h]

theorem ackFrame (tick : Word) (node kind : Byte) (ident : Word) (len : Byte) (payload : List Byte) (checksum : Word) :
    Statement (.ackFrame tick node kind ident len payload checksum) := by
  intro h
  have h : payload.length = 8 := by simpa [Instr.wellFormed] using h
  simp [Sys2Proof.encode, Instr.onWire, h]

end Sys2Proof.Laws.EncodedLength
end

