-- ==== Sys2Proof/Laws/Step.lean ====
section
/-!
SUPPORT. Everything a step can do, said once: a step performs one move on a state that differs from `s` in its schedule only, and
`MoveShape` lists the states a move can leave.
-/

namespace Sys2Proof.Machine

/-- A step whose move stands on the agenda. -/
theorem step_of_agenda {s : State} {m : Move} {rest : List Move} (h : s.agenda = m :: rest) :
    step s = perform m { s with agenda := rest } := by
  simp [step, takeMove, h]

/-- Taking a move changes the schedule and nothing else. -/
theorem takeMove_state (s : State) : ∃ a c, (takeMove s).2 = { s with agenda := a, clock := c } := by
  unfold takeMove
  split
  · exact ⟨_, s.clock, rfl⟩
  · exact ⟨s.agenda, _, rfl⟩

/-- Every step is one move performed on `s` with another schedule. -/
theorem step_performs (s : State) : ∃ a c, step s = perform (takeMove s).1 { s with agenda := a, clock := c } := by
  obtain ⟨a, c, h⟩ := takeMove_state s
  exact ⟨a, c, by rw [step, h]⟩

/-- The completion of the latest transaction of its kind is taken. -/
@[simp] theorem ofLatest_of_eq (n : Nat) (f : State → Result) (s : State) : ofLatest n n f s = f s := if_pos rfl

/-- The completion of an earlier transaction is ignored (R451). -/
theorem ofLatest_of_ne {n latest : Nat} (h : n ≠ latest) (f : State → Result) (s : State) : ofLatest n latest f s = .next s :=
  if_neg h

/-- What a completion does: nothing, or what the latest transaction's does. -/
theorem ofLatest_cases {n latest : Nat} {f : State → Result} {s t : State} (h : ofLatest n latest f s = .next t) :
    (n ≠ latest ∧ t = s) ∨ (n = latest ∧ f s = .next t) := by
  unfold ofLatest at h
  split at h
  · exact .inr ⟨‹_›, h⟩
  · exact .inl ⟨‹_›, (Host.Outcome.next.inj h).symm⟩

/-- What a descriptor on the command port does (R43, R130, R134): nothing, or the execution of the instruction it spells, or a
BAD_COMMAND answer. -/
theorem acceptDescriptor_cases {d : List Byte} {s t : State} (h : acceptDescriptor d s = .next t) :
    ((∃ d', s.cmdState = .exec d') ∧ t = s) ∨
    (s.cmdState = .idle ∧ ∃ i, decodeDescriptor d = .ok i ∧ ExecShape { s with cmdState := .exec d } i t) ∨
    (s.cmdState = .idle ∧ t = raise (byteAt d 0) (byteAt d 1) .badCommand s) := by
  unfold acceptDescriptor at h
  split at h
  · exact .inl ⟨⟨_, ‹_›⟩, (Host.Outcome.next.inj h).symm⟩
  · split at h
    · exact .inr (.inl ⟨‹_›, _, ‹_›, shape_of_exec h⟩)
    · exact .inr (.inr ⟨‹_›, (Host.Outcome.next.inj h).symm⟩)

/-- The frames a transfer gives (R266): the valid ones of its 25-byte chunks, in order. -/
def transferFrames (c : Config) (T : List Byte) : List DecodedFrame :=
  (List.range (chunkCount T.length)).filterMap fun n => (decodeBytes c (slice T (25 * n) (25 * n + 25))).toOption

/-- What the completion of a bulk IN read does (R266, R267, R270): nothing, the end of the read, or the deframe step. -/
theorem takeTransfer_cases {T : List Byte} {s t : State} (h : takeTransfer T s = .next t) :
    t = s ∨ t = abandonRead s ∨
    (s.rdState = .readPending ∧ s.stopReq = false ∧ T.length ≤ 500 ∧
      t = endDeframe { loadTransfer T s with batch := transferFrames s.cfg T }) := by
  unfold takeTransfer at h
  split at h
  · exact .inr (.inl (Host.Outcome.next.inj h).symm)
  · split at h
    · rename_i hT
      obtain ⟨h1, h2, h3⟩ := hT
      rw [deframe_eq] at h
      exact .inr (.inr ⟨h1, h2, h3, (Host.Outcome.next.inj h).symm⟩)
    · exact .inl (Host.Outcome.next.inj h).symm

/-- A batch holds at most 20 frames: a transfer has at most 500 bytes (R48, R273). -/
theorem transferFrames_length (c : Config) {T : List Byte} (h : T.length ≤ 500) : (transferFrames c T).length ≤ 20 := by
  refine (List.length_filterMap_le ..).trans ?_
  simp only [List.length_range, chunkCount, frameLen]
  omega

/-- The states a move can leave, rule by rule. A completion that is taken bears the number of the latest transaction of its kind. -/
inductive MoveShape (s : State) : Move → State → Prop where
  /-- Nothing waits for the move, or its engine has no enabled step (R408). -/
  | ignored (m : Move) : MoveShape s m s
  /-- A descriptor is executed (R43, R130). -/
  | executes (d : List Byte) (i : Instr) (t : State) (hc : s.cmdState = .idle) (hd : decodeDescriptor d = .ok i)
    (hx : ExecShape { s with cmdState := .exec d } i t) : MoveShape s (.descriptor d) t
  /-- A descriptor that spells no command is answered (R134, R135). -/
  | rejects (d : List Byte) (hc : s.cmdState = .idle) :
    MoveShape s (.descriptor d) (raise (byteAt d 0) (byteAt d 1) .badCommand s)
  /-- The answer of `usb_open` ends CONNECT (R260). -/
  | connected (ok : Bool) (d : List Byte) (tag : Byte) (hc : s.cmdState = .exec d) (hd : decodeDescriptor d = .ok (.connect tag))
    (hp : ok = true → s.devPresent = true) : MoveShape s (.usbOpened (opensIssued s.out) ok) (finishConnect tag ok s)
  /-- The read ends without a batch (R267, R268). -/
  | endsRead (m : Move)
    (hm : m = .readTimeout (readsIssued s.out) ∨ m = .readError (readsIssued s.out) ∨ m = .transfer (readsIssued s.out) [])
    (hr : s.rdState = .readPending) : MoveShape s m { s with rdState := .idle }
  /-- The deframe step (R266). -/
  | deframes (T : List Byte) (hr : s.rdState = .readPending) (hs : s.stopReq = false) (h1 : T ≠ []) (h2 : T.length ≤ 500) :
    MoveShape s (.transfer (readsIssued s.out) T) (endDeframe { loadTransfer T s with batch := transferFrames s.cfg T })
  /-- The OUT write completes (R275). -/
  | written (w : Fin 26) (hb : s.outPort = .busy) :
    MoveShape s (.writeDone (writesIssued s.out) w) { s with outPort := .done w }
  /-- The awaited synchronous listener completes (R313). -/
  | syncDone (lid : Half) (f : DecodedFrame) (l : List Entry) (k j : Nat) (hd : s.dispState = .sync f l k true)
    (hj : nextSync l k = some (j, { lid := .ext lid, mode := .sync })) :
    MoveShape s (.listenerDone lid (deliveriesTo lid s.out)) { s with dispState := .sync f l (j + 1) false }
  /-- An awaited asynchronous listener completes (R315). -/
  | asyncDone (lid : Half) (f : DecodedFrame) (w : List Handle) (hd : s.dispState = .async f w) (hw : Handle.ext lid ∈ w) :
    MoveShape s (.listenerDone lid (deliveriesTo lid s.out))
      (awaitAll f (w.filter (fun h => decide (h ≠ .ext lid))) s)
  /-- The poll finds a capture (R345, R346). -/
  | resolves (c : Correlation) (tick : Word) (hc : s.corr = .armed c) (ht : c.captured = some tick) :
    MoveShape s .strobe (resolve c .ok (bytesLe32 tick) s)
  /-- The deadline (R347). -/
  | expires (c : Correlation) (hc : s.corr = .armed c) (ht : c.captured = none) (hl : c.pollsLeft - 1 = 0) :
    MoveShape s .strobe (resolve c .noAck [] s)
  /-- One strobe less is left (R345). -/
  | counts (c : Correlation) (hc : s.corr = .armed c) (ht : c.captured = none) (hl : c.pollsLeft - 1 ≠ 0) :
    MoveShape s .strobe { s with corr := .armed { c with pollsLeft := c.pollsLeft - 1 } }
  /-- The input changes (R276). -/
  | devChanges (b : Bool) : MoveShape s (.devChange b) { s with devPresent := b }
  /-- Reset (R450, R451). -/
  | resets : MoveShape s .assertReset (resetElements s)
  /-- The issue step (R265). -/
  | issues (hr : s.running = true) (hs : s.stopReq = false) (hi : s.rdState = .idle) :
    MoveShape s .issueRead (emit (.usbRead 500 s.cfg.rxReadTimeoutMs) { s with rdState := .readPending })
  /-- The loop ends between reads (R270). -/
  | stops (hs : s.stopReq = true) (hr : s.rdState = .idle) : MoveShape s .stopLoop (endLoop s)
  /-- The loop ends and its read is cancelled (R270). -/
  | cancels (hs : s.stopReq = true) (hr : s.rdState = .readPending) : MoveShape s .stopLoop (emit .usbCancel (endLoop s))
  /-- The loop ends and its batch is discarded, between frames, at the end of a synchronous phase or in an asynchronous one (R270). -/
  | discards (hs : s.stopReq = true) (hr : s.rdState = .dispatching)
    (hd : s.dispState = .idle ∨ (∃ f w, s.dispState = .async f w) ∨ ∃ f l k, s.dispState = .sync f l k false ∧ nextSync l k = none) :
    MoveShape s .stopLoop (endLoop { s with dispState := .idle, batch := [] })
  /-- The end of the batch (R269). -/
  | endsBatch (hr : s.rdState = .dispatching) (hb : s.batch = []) (hd : s.dispState = .idle) :
    MoveShape s .endBatch { s with rdState := .idle }
  /-- An unmatched frame is dropped (R312). -/
  | drops (f : DecodedFrame) (rest : List DecodedFrame) (hr : s.rdState = .dispatching) (hs : s.stopReq = false)
    (hd : s.dispState = .idle) (hb : s.batch = f :: rest) (hl : SubTable.listeners s.subs (frameKey f) = []) :
    MoveShape s .dispatch { s with batch := rest }
  /-- A dispatch starts with the list under the frame's key (R310, R311). -/
  | starts (f : DecodedFrame) (rest : List DecodedFrame) (hr : s.rdState = .dispatching) (hs : s.stopReq = false)
    (hd : s.dispState = .idle) (hb : s.batch = f :: rest) (hl : SubTable.listeners s.subs (frameKey f) ≠ []) :
    MoveShape s .dispatch
      { s with batch := rest, dispState := .sync f (SubTable.listeners s.subs (frameKey f)) 0 false }
  /-- A synchronous delivery to an external listener (R313). -/
  | delivers (f : DecodedFrame) (l : List Entry) (k j : Nat) (lid : Half) (hd : s.dispState = .sync f l k false)
    (hj : nextSync l k = some (j, { lid := .ext lid, mode := .sync })) :
    MoveShape s .dispatch (emit (.deliver (.ext lid) f) { s with dispState := .sync f l k true })
  /-- The delivery to the internal listener (R344). -/
  | captures (f : DecodedFrame) (l : List Entry) (k j : Nat) (g : Word) (hd : s.dispState = .sync f l k false)
    (hj : nextSync l k = some (j, { lid := .int g, mode := .sync })) :
    MoveShape s .dispatch (capture g f { s with dispState := .sync f l (j + 1) false })
  /-- The asynchronous deliveries (R314). -/
  | deliversAll (f : DecodedFrame) (l : List Entry) (k : Nat) (hd : s.dispState = .sync f l k false)
    (hn : nextSync l k = none) (hs : s.stopReq = false) : MoveShape s .dispatch (deliverAsync f l s)
  /-- STOP or DISCONNECT ends (R261, R263). -/
  | disconnects (d : List Byte) (opc tag : Byte) (hc : s.cmdState = .exec d)
    (hd : decodeDescriptor d = .ok (.stop tag) ∨ decodeDescriptor d = .ok (.disconnect tag)) (hr : s.running = false) :
    MoveShape s .resume (disconnectNow opc tag s)
  /-- SEND, or SEND_ACKED after a failed write, answers (R274, R349). -/
  | answers (d : List Byte) (i : Instr) (o g : Byte) (st : Status) (w : Fin 26) (hc : s.cmdState = .exec d)
    (hd : decodeDescriptor d = .ok i) (hw : s.outPort = .done w)
    (c : CorrState) (hk : c = s.corr ∨ c = .idle ∧ ∃ c', s.corr = .writing c') :
    MoveShape s .resume (respond o g st [] { s with outPort := .idle, corr := c })
  /-- SEND_ACKED arms (R343). -/
  | arms (d : List Byte) (i : Instr) (c : Correlation) (w : Fin 26) (hc : s.cmdState = .exec d)
    (hd : decodeDescriptor d = .ok i) (hw : s.outPort = .done w) (hk : s.corr = .writing c) :
    MoveShape s .resume (arm c { s with outPort := .idle })

/-- The awaited entry, as `syncDone`, `delivers` and `captures` name it. -/
theorem nextSync_entry {l : List Entry} {k j : Nat} {e : Entry} (h : nextSync l k = some (j, e)) :
    nextSync l k = some (j, { lid := e.lid, mode := .sync }) := by
  obtain ⟨lid, mode⟩ := e
  obtain rfl : mode = .sync := (nextSync_some h).2.2
  exact h

theorem abandonRead_shape {m : Move} {s : State}
    (hm : m = .readTimeout (readsIssued s.out) ∨ m = .readError (readsIssued s.out) ∨ m = .transfer (readsIssued s.out) []) :
    MoveShape s m (abandonRead s) := by
  unfold abandonRead
  split
  · exact .endsRead m hm ‹_›
  · exact .ignored m

/-- The command in progress awaits the answer of `usb_open` exactly if it is a CONNECT (R260). -/
theorem awaitingOpen_some {cs : CmdState} {tag : Byte} :
    awaitingOpen cs = some tag ↔ ∃ d, cs = .exec d ∧ decodeDescriptor d = .ok (.connect tag) := by
  constructor
  · intro h
    unfold awaitingOpen at h
    split at h
    · cases h
    · split at h
      · exact ⟨_, rfl, Option.some.inj h ▸ ‹_›⟩
      · cases h
  · rintro ⟨d, rfl, hd⟩
    simp [awaitingOpen, hd]

theorem takeOpenAnswer_shape (ok : Bool) (s : State) : MoveShape s (.usbOpened (opensIssued s.out) ok) (takeOpenAnswer ok s) := by
  unfold takeOpenAnswer
  split
  · exact .ignored _
  · rename_i tag h
    obtain ⟨d, hc, hd⟩ := awaitingOpen_some.mp h
    split
    · exact .ignored _
    · exact .connected ok d tag hc hd (by simp_all)

theorem takeWriteDone_shape (w : Fin 26) (s : State) : MoveShape s (.writeDone (writesIssued s.out) w) (takeWriteDone w s) := by
  unfold takeWriteDone
  split
  · exact .written w ‹_›
  · exact .ignored _
  · exact .ignored _

theorem takeListenerDone_shape (lid : Half) (s : State) :
    MoveShape s (.listenerDone lid (deliveriesTo lid s.out)) (takeListenerDone lid s) := by
  unfold takeListenerDone
  split
  · exact .ignored _
  · exact .ignored _
  · split
    · exact .ignored _
    · split
      · rename_i hj he
        exact .syncDone lid _ _ _ _ ‹_› (by rw [← he]; exact nextSync_entry hj)
      · exact .ignored _
  · split
    · exact .asyncDone lid _ _ ‹_› ‹_›
    · exact .ignored _

theorem poll_shape (s : State) : MoveShape s .strobe (poll s) := by
  unfold poll
  split
  · split
    · exact .resolves _ _ ‹_› ‹_›
    · split
      · exact .expires _ ‹_› ‹_› ‹_›
      · exact .counts _ ‹_› ‹_› ‹_›
  · exact .ignored _
  · exact .ignored _

theorem stopLoop_shape (s : State) : MoveShape s .stopLoop (stopLoop s) := by
  unfold stopLoop
  split
  · split
    · exact .stops ‹_› ‹_›
    · exact .cancels ‹_› ‹_›
    · split
      · rename_i hs _ hr _ hd
        have h := MoveShape.discards hs hr (.inl hd)
        rwa [show ({ s with dispState := .idle, batch := [] } : State) = { s with batch := [] } by rw [← hd]] at h
      · exact .discards ‹_› ‹_› (.inr (.inl ⟨_, _, ‹_›⟩))
      · split
        · rename_i hs _ hr _ _ _ _ _ hd hw
          exact .discards hs hr (.inr (.inr ⟨_, _, _, hw.1 ▸ hd, hw.2⟩))
        · exact .ignored _
  · exact .ignored _

theorem dispatchStep_shape (s : State) : MoveShape s .dispatch (dispatchStep s) := by
  unfold dispatchStep
  split
  · rename_i hd
    unfold startDispatch
    split
    · rename_i hr
      split
      · exact .ignored _
      · rename_i hb
        split
        · exact .drops _ _ hr.1 hr.2 hd hb ‹_›
        · rename_i hl
          rw [← hl]
          exact .starts _ _ hr.1 hr.2 hd hb (by simp [hl])
    · exact .ignored _
  · rename_i hd
    split
    · rename_i j e hj
      have hj := nextSync_entry hj
      unfold deliverSync
      split
      · rename_i he
        exact .delivers _ _ _ j _ hd (he ▸ hj)
      · rename_i he
        exact .captures _ _ _ j _ hd (he ▸ hj)
    · split
      · exact .ignored _
      · exact .deliversAll _ _ _ hd ‹_› (Bool.eq_false_iff.mpr ‹_›)
  · exact .ignored _
  · exact .ignored _

theorem resumeCommand_shape (s : State) : MoveShape s .resume (resumeCommand s) := by
  unfold resumeCommand
  split
  · exact .ignored _
  · rename_i d hc
    split
    · rename_i i hd
      cases i <;> try exact .ignored _
      · simp only [resumeInstr]
        split
        · exact .ignored _
        · exact .disconnects d _ _ hc (.inr hd) (Bool.eq_false_iff.mpr ‹_›)
      · simp only [resumeInstr]
        split
        · exact .ignored _
        · exact .disconnects d _ _ hc (.inl hd) (Bool.eq_false_iff.mpr ‹_›)
      · simp only [resumeInstr, afterWrite]
        split
        · unfold finishSend
          split
          · exact .answers d _ _ _ _ _ hc hd ‹_› s.corr (.inl rfl)
          · exact .answers d _ _ _ _ _ hc hd ‹_› s.corr (.inl rfl)
        · exact .ignored _
        · exact .ignored _
      · simp only [resumeInstr, afterWrite]
        split
        · unfold finishSendAcked
          split
          · split
            · exact .arms d _ _ _ hc hd ‹_› ‹_›
            · exact .answers d _ _ _ _ _ hc hd ‹_› .idle (.inr ⟨rfl, _, ‹_›⟩)
          · exact .ignored _
          · exact .ignored _
        · exact .ignored _
        · exact .ignored _
    · exact .ignored _

/-- Everything a move can do. -/
theorem perform_shape {m : Move} {s t : State} (h : perform m s = .next t) : MoveShape s m t := by
  cases m with
  | descriptor d =>
    obtain ⟨-, rfl⟩ | ⟨hc, i, hd, hx⟩ | ⟨hc, rfl⟩ := acceptDescriptor_cases h
    · exact .ignored _
    · exact .executes d i t hc hd hx
    · exact .rejects d hc
  | usbOpened n ok =>
    simp only [perform] at h
    obtain ⟨-, rfl⟩ | ⟨rfl, h'⟩ := ofLatest_cases h
    · exact .ignored _
    · exact Host.Outcome.next.inj h' ▸ takeOpenAnswer_shape ok s
  | transfer n T =>
    simp only [perform] at h
    obtain ⟨-, rfl⟩ | ⟨rfl, h'⟩ := ofLatest_cases h
    · exact .ignored _
    · unfold takeTransfer at h'
      split at h'
      · rename_i hT
        subst hT
        exact Host.Outcome.next.inj h' ▸ abandonRead_shape (.inr (.inr rfl))
      · split at h'
        · rename_i hT hr
          rw [deframe_eq] at h'
          exact Host.Outcome.next.inj h' ▸ .deframes T hr.1 hr.2.1 hT hr.2.2
        · exact Host.Outcome.next.inj h' ▸ .ignored _
  | readTimeout n =>
    simp only [perform] at h
    obtain ⟨-, rfl⟩ | ⟨rfl, h'⟩ := ofLatest_cases h
    · exact .ignored _
    · exact Host.Outcome.next.inj h' ▸ abandonRead_shape (.inl rfl)
  | readError n =>
    simp only [perform] at h
    obtain ⟨-, rfl⟩ | ⟨rfl, h'⟩ := ofLatest_cases h
    · exact .ignored _
    · exact Host.Outcome.next.inj h' ▸ abandonRead_shape (.inr (.inl rfl))
  | writeDone n w =>
    simp only [perform] at h
    obtain ⟨-, rfl⟩ | ⟨rfl, h'⟩ := ofLatest_cases h
    · exact .ignored _
    · exact Host.Outcome.next.inj h' ▸ takeWriteDone_shape w s
  | listenerDone lid n =>
    simp only [perform] at h
    obtain ⟨-, rfl⟩ | ⟨rfl, h'⟩ := ofLatest_cases h
    · exact .ignored _
    · exact Host.Outcome.next.inj h' ▸ takeListenerDone_shape lid s
  | strobe => exact Host.Outcome.next.inj h ▸ poll_shape s
  | devChange b => exact Host.Outcome.next.inj h ▸ .devChanges b
  | assertReset => exact Host.Outcome.next.inj h ▸ .resets
  | issueRead =>
    obtain rfl := Host.Outcome.next.inj h
    unfold issueRead
    split
    · rename_i hi
      exact .issues hi.1 hi.2.1 hi.2.2
    · exact .ignored _
  | stopLoop => exact Host.Outcome.next.inj h ▸ stopLoop_shape s
  | endBatch =>
    obtain rfl := Host.Outcome.next.inj h
    unfold endBatch
    split
    · rename_i hb
      exact .endsBatch hb.1 hb.2.1 hb.2.2
    · exact .ignored _
  | dispatch => exact Host.Outcome.next.inj h ▸ dispatchStep_shape s
  | resume => exact Host.Outcome.next.inj h ▸ resumeCommand_shape s

/-- Everything a step can do. -/
theorem step_shape {s t : State} (h : step s = .next t) :
    ∃ m a c, (takeMove s).1 = m ∧ MoveShape { s with agenda := a, clock := c } m t := by
  obtain ⟨a, c, hs⟩ := step_performs s
  exact ⟨_, a, c, rfl, perform_shape (hs ▸ h)⟩

end Sys2Proof.Machine
end

