-- ==== Sys2Proof/Tests/Slice0.lean ====
section
/-!
SUPPORT. Tests of the model. Every expected value comes from spec/95_test_vectors.md (the vector is named), from a rule of spec/, or
is worked out by hand from the encoding tables of 30_encoding.md. The theorems named test_witness_<Statement> show, for each
statement of Certificates/Slice0/Obligations.lean that has hypotheses, concrete states and operands that meet them.
-/

namespace Sys2Proof.Tests

open Sys2Proof Sys2Proof.Machine Sys2Proof.Safety Sys2Proof.Claims

/-! ### Helpers -/

/-- A check on the state a step or an instruction leaves. -/
def leaves (r : Result) (p : State → Bool) : Bool :=
  match r with
  | .next t => p t
  | .fault _ => false
  | .refused _ => false

/-- The instruction a decoder gives. -/
def got (r : Except DecodeError Instr) : Option Instr := r.toOption

/-- The error a decoder gives. -/
def failure (r : Except DecodeError Instr) : Option DecodeError :=
  match r with
  | .ok _ => none
  | .error e => some e

def zeros (n : Nat) : List Byte := List.replicate n 0

/-- Bytes 0..20 of frames F1, F3, F12 and F16 (section 2.1). -/
def f1Head : List Byte := [0xFF, 0xFF, 0, 0, 0, 0, 1, 0, 7, 2, 0, 0, 8] ++ zeros 8
def f3Head : List Byte := [0xAA, 0xAA, 0x34, 0x12, 0, 0, 1, 0, 7, 2, 0, 0, 0] ++ zeros 8
def f12Head : List Byte := [0xFF, 0xFF, 0, 0, 0, 0, 1, 0, 7, 2, 0, 0, 1, 1] ++ zeros 7
def f16Head : List Byte := [0xFF, 0xFF, 0, 0, 0, 0, 1, 0, 7, 2, 0, 0, 0] ++ zeros 8

/-- The same frames with their T_MSB checksums. -/
def f1 : List Byte := f1Head ++ [0x4F, 0x5E, 0x9F, 0x70]
def f3 : List Byte := f3Head ++ [0xEE, 0x7E, 0xC0, 0x90]
def f12 : List Byte := f12Head ++ [0xD6, 0x2B, 0x7C, 0x57]
def f16 : List Byte := f16Head ++ [0x7A, 0x5D, 0xDD, 0xFE]

/-- F8: F1 with the length byte 9. -/
def f8 : List Byte := [0xFF, 0xFF, 0, 0, 0, 0, 1, 0, 7, 2, 0, 0, 9] ++ zeros 8 ++ [0x29, 0xF4, 0x9F, 0x82]

/-- The records of F1, F3 and F12. -/
def f1Record : DecodedFrame :=
  { marker := 0xFFFF, tick := 0, node := 1, kind := 0, identifier := 0x207, length := 8, payloadRaw := zeros 8
    checksum := 0x709F5E4F }
def f3Record : DecodedFrame :=
  { marker := 0xAAAA, tick := 0x1234, node := 1, kind := 0, identifier := 0x207, length := 0, payloadRaw := zeros 8
    checksum := 0x90C07EEE }
def f12Record : DecodedFrame :=
  { marker := 0xFFFF, tick := 0, node := 1, kind := 0, identifier := 0x207, length := 1, payloadRaw := [1] ++ zeros 7
    checksum := 0x577C2BD6 }

/-- The keys of identifier 0x207. -/
def dataKey : Key := { marker := 0xFFFF, identifier := 0x207 }
def ack207 : Key := { marker := 0xAAAA, identifier := 0x207 }

def syncEntry (lid : Half) : Entry := { lid := .ext lid, mode := .sync }
def asyncEntry (lid : Half) : Entry := { lid := .ext lid, mode := .async }
def internalEntry (g : Word) : Entry := { lid := .int g, mode := .sync }

/-- The reset state with these moves to come. -/
def fresh (moves : List Move) : State := { State.reset with agenda := moves }

/-- Connected, no loop. -/
def connectedState (moves : List Move) : State := { fresh moves with connected := true }

/-- Connected, the loop waiting for a transfer. -/
def readingState (moves : List Move) : State := { connectedState moves with running := true, rdState := .readPending }

/-- Connected, the loop dispatching these frames. -/
def dispatchingState (moves : List Move) (frames : List DecodedFrame) (d : DispState) : State :=
  { connectedState moves with running := true, rdState := .dispatching, batch := frames, dispState := d }

/-- A command in progress. -/
def executing (moves : List Move) (desc : List Byte) : State := { connectedState moves with cmdState := .exec desc }

/-- A correlation of tag 2 for identifier 0x207. -/
def correlation (left : Nat) (captured : Option Word) : Correlation :=
  { tag := 2, identifier := 0x207, gen := 0, pollsLeft := left, captured := captured }

/-- V-ACK-15: an external and the internal listener under the ACK key, the correlation armed. -/
def armedState (moves : List Move) (left : Nat) (captured : Option Word) : State :=
  { connectedState moves with
    running := true, subs := [(ack207, [syncEntry 9, internalEntry 0]), (dataKey, [asyncEntry 1])]
    corr := .armed (correlation left captured), armGen := 1 }

/-- The SEND_ACKED descriptor of section 2.12, with tag 2, and the SEND of V-SND-1, with tag 1. -/
def sendAckedDesc : List Byte := [0x21, 0x02, 1, 0, 7, 2, 0, 0, 0, 0] ++ zeros 8
def sendDesc : List Byte := [0x20, 0x01, 1, 0, 7, 2, 0, 0, 8, 8] ++ zeros 8

/-! ### Well-formedness: each check refuses an ill-formed term -/

theorem test_wellFormed_encode : (Instr.encode 0 0 0 0 0 0 (zeros 7)).wellFormed = false := by decide
theorem test_wellFormed_decode : (Instr.decode 0 (zeros 256)).wellFormed = false := by decide +kernel
theorem test_wellFormed_checksum : (Instr.checksum 0 (zeros 22)).wellFormed = false := by decide
theorem test_wellFormed_send : (Instr.send 0 0 0 0 0 0 (zeros 9)).wellFormed = false := by decide
theorem test_wellFormed_sendAcked : (Instr.sendAcked 0 0 0 0 0 0 []).wellFormed = false := by decide
theorem test_wellFormed_dataFrame : (Instr.dataFrame 0 0 0 0 0 (zeros 7) 0).wellFormed = false := by decide
theorem test_wellFormed_ackFrame : (Instr.ackFrame 0 0 0 0 0 (zeros 9) 0).wellFormed = false := by decide

/-! ### Decoding: a word of every constructor, written out from R120, R131, R132 -/

theorem test_decode_connect : got (decodeDescriptor [0x01, 0x5A]) = some (.connect 0x5A) := by decide
theorem test_decode_disconnect : got (decodeDescriptor [0x02, 0x06]) = some (.disconnect 0x06) := by decide
theorem test_decode_start : got (decodeDescriptor [0x03, 0x05]) = some (.start 0x05) := by decide
theorem test_decode_stop : got (decodeDescriptor [0x04, 0x07]) = some (.stop 0x07) := by decide
theorem test_decode_status : got (decodeDescriptor [0x05, 0xFF]) = some (.status 0xFF) := by decide
/-- V-ENC-3. -/
theorem test_decode_encode :
    got (decodeDescriptor [0x10, 0x09, 0x03, 0x01, 0xE5, 0x50, 0xFF, 0x18, 0x03, 0x03, 1, 2, 3, 0, 0, 0, 0, 0]) =
      some (.encode 0x09 0x03 0x01 0x18FF50E5 0x03 0x03 [1, 2, 3, 0, 0, 0, 0, 0]) := by decide
theorem test_decode_decode : got (decodeDescriptor [0x11, 0x01, 0x02, 0xAA, 0xBB]) = some (.decode 0x01 [0xAA, 0xBB]) := by decide
theorem test_decode_checksum : got (decodeDescriptor ([0x12, 0x03] ++ f1Head)) = some (.checksum 0x03 f1Head) := by decide
theorem test_decode_send :
    got (decodeDescriptor sendDesc) = some (.send 0x01 1 0 0x207 8 8 (zeros 8)) := by decide
theorem test_decode_sendAcked :
    got (decodeDescriptor sendAckedDesc) = some (.sendAcked 0x02 1 0 0x207 0 0 (zeros 8)) := by decide
/-- V-SUB-2. -/
theorem test_decode_subscribe :
    got (decodeDescriptor [0x30, 0x02, 7, 2, 0, 0, 0xFF, 0xFF, 0x02, 0x01, 0x01]) = some (.subscribe 0x02 0x207 0xFFFF 0x0102 1) := by
  decide
/-- V-SUB-11. -/
theorem test_decode_unsubscribe :
    got (decodeDescriptor [0x31, 0x02, 7, 2, 0, 0, 0xAA, 0xAA, 3, 0, 0xFF]) = some (.unsubscribe 0x02 0x207 0xAAAA 3 0xFF) := by
  decide
/-- F7. -/
theorem test_decode_dataFrame :
    got (decodeFrame [0xFF, 0xFF, 0x64, 0, 0, 0, 3, 1, 0xE5, 0x50, 0xFF, 0x18, 3, 1, 2, 3, 0, 0, 0, 0, 0, 0x64, 0xB9, 0xA4, 0x36]) =
      some (.dataFrame 0x64 3 1 0x18FF50E5 3 [1, 2, 3, 0, 0, 0, 0, 0] 0x36A4B964) := by decide
/-- F6. -/
theorem test_decode_ackFrame :
    got (decodeFrame [0xAA, 0xAA, 0x0D, 0x0C, 0x0B, 0x0A, 2, 1, 0, 3, 0, 0, 2, 0x12, 0x34, 0, 0, 0, 0, 0, 0, 0xB8, 0x9D, 0x12, 0xF2]) =
      some (.ackFrame 0x0A0B0C0D 2 1 0x300 2 [0x12, 0x34, 0, 0, 0, 0, 0, 0] 0xF2129DB8) := by decide

/-- V-BAD-1 to V-BAD-7, V-ENC-13, V-DEC-24, V-CHK-4: rejected by name. -/
theorem test_decode_rejects :
    failure (decodeDescriptor [0x06, 0x07]) = some .reservedOpcode ∧ failure (decodeDescriptor [0xFF, 0x01]) = some .reservedOpcode ∧
    failure (decodeDescriptor []) = some .emptyDescriptor ∧ failure (decodeDescriptor [0x01]) = some .descriptorLength ∧
    failure (decodeDescriptor [0x01, 0x05, 0x00]) = some .descriptorLength ∧
    failure (decodeDescriptor [0x11, 0x01]) = some .descriptorLength ∧ failure (decodeDescriptor [0, 0]) = some .reservedOpcode ∧
    failure (decodeDescriptor ([0x10] ++ zeros 16)) = some .descriptorLength ∧
    failure (decodeDescriptor [0x11, 0x01, 0x02, 0xAA]) = some .descriptorLength ∧
    failure (decodeDescriptor ([0x12] ++ zeros 21)) = some .descriptorLength := by decide

/-- V-DEC-10, V-DEC-13: a chunk that spells no frame. -/
theorem test_decode_rejects_chunk :
    failure (decodeFrame (f1.take 24)) = some .frameLength ∧ failure (decodeFrame ([0xFE] ++ f1.drop 1)) = some .unknownMarker := by
  decide

/-- The words of the table: operands of zeros behind the row's own bits, first byte least significant. -/
theorem test_tableWord :
    decodeTableWord 8 0x01 = some (.connect 0) ∧ decodeTableWord 8 0x21 = some (.sendAcked 0 0 0 0 0 0 (zeros 8)) ∧
    decodeTableWord 8 0x11 = some (.decode 0 []) ∧ decodeTableWord 16 0x0705 = some (.status 7) ∧
    decodeTableWord 16 0xFFFF = some (.dataFrame 0 0 0 0 0 (zeros 8) 0) ∧
    decodeTableWord 16 0xAAAA = some (.ackFrame 0 0 0 0 0 (zeros 8) 0) ∧ decodeTableWord 8 0x06 = none := by decide

/-- V-LC-1: STATUS as the first instruction after reset. -/
theorem test_fetchWord_status :
    leaves (step (State.reset.withFetchWord 16 0x0705)) (fun t => decide (t.out = [.response [0x05, 0x07, 0x00, 0x00]])) = true := by
  decide

/-- A DATA_FRAME of zeros has the checksum of F4, not 0: it is dropped and the read ends (V-RX-12). -/
theorem test_fetchWord_dataFrame :
    leaves (step (State.reset.withFetchWord 16 0xFFFF)) (fun t => decide (t.batch = [] ∧ t.rdState = .idle ∧ t.rxLen = 25)) = true := by
  decide +kernel

/-! ### The checksum -/

/-- The last row of each table of R201 and R202. -/
theorem test_crc_tables :
    tMsb.toList.drop 248 =
      [0xAFB010B1, 0xAB710D06, 0xA6322BDF, 0xA2F33668, 0xBCB4666D, 0xB8757BDA, 0xB5365D03, 0xB1F740B4] ∧
    tRefl.toList.drop 248 =
      [0xB3667A2E, 0xC4614AB8, 0x5D681B02, 0x2A6F2B94, 0xB40BBE37, 0xC30C8EA1, 0x5A05DF1B, 0x2D02EF8D] := by decide +kernel

/-- V-CRC-3, V-CRC-4, V-CRC-5, V-CRC-7 under both tables. -/
theorem test_crc_short :
    crc32Ssb tMsb [0x01] = 0x04C11DB7 ∧ crc32Ssb tMsb [0x80] = 0x690CE0EE ∧ crc32Ssb tMsb [0xFF] = 0xB1F740B4 ∧
    crc32Ssb tMsb [0x01, 0x00] = 0xD219C1DC ∧ crc32Ssb tRefl [0x01] = 0x77073096 ∧ crc32Ssb tRefl [0x80] = 0xEDB88320 ∧
    crc32Ssb tRefl [0xFF] = 0x2D02EF8D ∧ crc32Ssb tRefl [0x01, 0x00] = 0xC951729F := by decide +kernel

/-- V-CRC-8, the ASCII string "123456789", under both tables. -/
theorem test_crc_check_value :
    crc32Ssb tMsb [0x31, 0x32, 0x33, 0x34, 0x35, 0x36, 0x37, 0x38, 0x39] = 0x89A1897F ∧
    crc32Ssb tRefl [0x31, 0x32, 0x33, 0x34, 0x35, 0x36, 0x37, 0x38, 0x39] = 0xFC9E4DC1 := by decide +kernel

/-- V-CRC-10, V-CRC-11, V-CRC-12. -/
theorem test_crc_frame :
    crc32Ssb tMsb (List.replicate 21 0xFF) = 0xAE8192AE ∧ crc32Ssb tRefl f1Head = 0x00C51B88 ∧
    crc32Ssb tMsb (zeros 12 ++ [8] ++ zeros 8) = 0x8E420335 := by decide +kernel

/-! ### The codec commands -/

/-- V-CHK-1, V-CHK-2. -/
theorem test_checksum :
    leaves (exec (.checksum 7 f1Head) State.reset) (fun t => decide (t.out = [.response [0x12, 7, 0, 0x4F, 0x5E, 0x9F, 0x70]])) = true ∧
    leaves (exec (.checksum 7 (zeros 21)) State.reset) (fun t => decide (t.out = [.response [0x12, 7, 0, 0, 0, 0, 0]])) = true := by
  decide +kernel

/-- V-ENC-1: the response carries F1, and `tx_buf` holds it. -/
theorem test_encode_f1 :
    leaves (exec (.encode 7 1 0 0x207 8 8 (zeros 8)) State.reset)
      (fun t => decide (t.out = [.response ([0x10, 7, 0] ++ f1)] ∧ memRead t.txBuf 25 0 25 = some f1)) = true := by
  decide +kernel

/-- V-ENC-7: PAYLOAD bytes past PCOUNT are ignored; V-ENC-9: PCOUNT 9 is ARG_ERROR and `tx_buf` stays. -/
theorem test_encode_pcount :
    leaves (exec (.encode 7 1 0 0x207 2 1 [0xAB, 0xCD, 0xEF, 0, 0, 0, 0, 0]) State.reset)
      (fun t => decide (Memory.read t.txBuf 13 = some 0xAB ∧ Memory.read t.txBuf 14 = some 0 ∧ Memory.read t.txBuf 21 = some 0x73)) = true ∧
    leaves (exec (.encode 7 1 0 0x207 8 9 (zeros 8)) State.reset)
      (fun t => decide (t.out = [.response [0x10, 7, 2]] ∧ t.txBuf = [])) = true := by
  decide +kernel

/-- V-DEC-2, in full. -/
theorem test_decode_f3 :
    leaves (exec (.decode 7 f3) State.reset) (fun t => decide (t.out = [.response
      ([0x11, 7, 0, 0] ++ f3 ++ [5, 0x30, 0x78, 0x32, 0x30, 0x37, 6, 0x30, 0x78, 0x41, 0x41, 0x41, 0x41, 0, 8, 0x45, 0x45, 0x37, 0x45,
        0x43, 0x30, 0x39, 0x30])])) = true := by
  decide +kernel

/-- V-DEC-8, V-DEC-12, V-DEC-14, V-DEC-16: the four reasons, and their order. -/
theorem test_decode_reasons :
    leaves (exec (.decode 7 f8) State.reset) (fun t => decide (t.out = [.response [0x11, 7, 1, 3]])) = true ∧
    leaves (exec (.decode 7 []) State.reset) (fun t => decide (t.out = [.response [0x11, 7, 1, 1]])) = true ∧
    leaves (exec (.decode 7 ([0xFE] ++ (f1.take 24).drop 1 ++ [0x71])) State.reset)
      (fun t => decide (t.out = [.response [0x11, 7, 1, 2]])) = true ∧
    leaves (exec (.decode 7 (f1.take 24 ++ [0x71])) State.reset) (fun t => decide (t.out = [.response [0x11, 7, 1, 4]])) = true := by
  decide +kernel

/-- V-TXT-1, V-TXT-3, V-TXT-4, V-TXT-6, V-TXT-9, V-TXT-10, V-TXT-12. -/
theorem test_text :
    renderHex 0 = [0x30, 0x78, 0x30] ∧ renderHex 0x10 = [0x30, 0x78, 0x31, 0x30] ∧
    renderHex 0x207 = [0x30, 0x78, 0x32, 0x30, 0x37] ∧ (renderHex 0xFFFFFFFF).length = 10 ∧ renderPayload [0x0A] = [0x30, 0x41] ∧
    renderPayload [0xFF, 0x00, 0xAA, 0x55] = [0x46, 0x46, 0x20, 0x30, 0x30, 0x20, 0x41, 0x41, 0x20, 0x35, 0x35] ∧
    renderChecksum [0x4F, 0x5E, 0x9F, 0x70] = [0x34, 0x46, 0x35, 0x45, 0x39, 0x46, 0x37, 0x30] := by decide

/-! ### The lifecycle commands -/

/-- V-LC-4, V-LC-3. -/
theorem test_connect :
    leaves (step { executing [.usbOpened 0 true] [0x01, 7] with connected := false })
      (fun t => decide (t.connected = true ∧ t.out = [.response [0x01, 7, 0]])) = true ∧
    leaves (step { executing [.usbOpened 0 false] [0x01, 7] with connected := false })
      (fun t => decide (t.connected = false ∧ t.out = [.response [0x01, 7, 7]])) = true := by decide

/-- V-LC-16; V-LC-15: with the loop running DISCONNECT asks it to end. -/
theorem test_disconnect :
    leaves (exec (.disconnect 7) State.reset) (fun t => decide (t.out = [.response [0x02, 7, 0]])) = true ∧
    leaves (exec (.disconnect 7) (readingState [])) (fun t => decide (t.stopReq = true ∧ t.connected = true ∧ t.out = [])) = true := by
  decide

/-- V-LC-2, V-LC-7. -/
theorem test_start :
    leaves (exec (.start 7) State.reset) (fun t => decide (t.out = [.response [0x03, 7, 8]] ∧ t.running = false)) = true ∧
    leaves (exec (.start 7) (connectedState [])) (fun t => decide (t.out = [.response [0x03, 7, 0]] ∧ t.running = true)) = true := by
  decide

/-- V-LC-13: the stop step cancels the read; the resumed STOP disconnects and answers. -/
theorem test_stop :
    leaves (step { readingState [.stopLoop] with stopReq := true })
      (fun t => decide (t.running = false ∧ t.stopReq = false ∧ t.rdState = .idle ∧ t.out = [.usbCancel])) = true ∧
    leaves (step (executing [.resume] [0x04, 7]))
      (fun t => decide (t.connected = false ∧ t.out = [.response [0x04, 7, 0]])) = true := by decide

/-- V-LC-10, V-ACK-17. -/
theorem test_status :
    leaves (exec (.status 7) { readingState [] with devPresent := false }) (fun t => decide (t.out = [.response [5, 7, 0, 2]])) = true ∧
    leaves (exec (.status 7) (armedState [] 100 none)) (fun t => decide (t.out = [.response [5, 7, 0, 7]])) = true := by decide

/-! ### SEND and SEND_ACKED -/

/-- V-SND-1, V-SND-4. -/
theorem test_send :
    leaves (exec (.send 1 1 0 0x207 8 8 (zeros 8)) (connectedState []))
      (fun t => decide (t.out = [.usbWrite f1] ∧ t.outPort = .busy)) = true ∧
    leaves (exec (.send 1 1 0 0x207 8 8 (zeros 8)) State.reset)
      (fun t => decide (t.out = [.response [0x20, 1, 3]] ∧ memRead t.txBuf 25 0 25 = some f1)) = true := by decide +kernel

/-- V-SND-1 and V-SND-2: 25 bytes are OK, 24 are WRITE_FAILED. -/
theorem test_send_completion :
    leaves (step { executing [.resume] sendDesc with outPort := .done 25 }) (fun t => decide (t.out = [.response [0x20, 1, 0]])) = true ∧
    leaves (step { executing [.resume] sendDesc with outPort := .done 24 }) (fun t => decide (t.out = [.response [0x20, 1, 3]])) = true := by
  decide

/-- Section 2.12: the OUT write carries F16; V-ACK-5. -/
theorem test_sendAcked :
    leaves (exec (.sendAcked 2 1 0 0x207 0 0 (zeros 8)) (connectedState [])) (fun t => decide (t.out = [.usbWrite f16])) = true ∧
    leaves (exec (.sendAcked 3 1 0 0x207 0 0 (zeros 8)) (armedState [] 100 none))
      (fun t => decide (t.out = [.response [0x21, 3, 5]] ∧ t.txBuf = [])) = true := by decide +kernel

/-- P2 step 3: arming. -/
theorem test_sendAcked_arms :
    leaves (step { executing [.resume] sendAckedDesc with outPort := .done 25, corr := .writing (correlation 100 none) })
      (fun t => decide (t.corr = .armed (correlation 100 none) ∧ t.armGen = 1 ∧ t.subs = [(ack207, [internalEntry 0])] ∧
        t.cmdState = .idle ∧ t.out = [])) = true := by decide

/-- V-ACK-1, V-ACK-2b: the capture at a strobe, and the deadline; V-ACK-15: the external listener stays. -/
theorem test_poll :
    leaves (step (armedState [.strobe] 1 (some 0x1234)))
      (fun t => decide (t.out = [.response [0x21, 2, 0, 0x34, 0x12, 0, 0]] ∧ t.corr = .idle ∧
        SubTable.find t.subs ack207 = some [syncEntry 9])) = true ∧
    leaves (step (armedState [.strobe] 1 none)) (fun t => decide (t.out = [.response [0x21, 2, 4]])) = true := by decide

/-! ### SUBSCRIBE and UNSUBSCRIBE -/

/-- V-SUB-2, V-SUB-3. -/
theorem test_subscribe :
    leaves (exec (.subscribe 7 0x207 0xFFFF 2 1) { fresh [] with subs := [(dataKey, [syncEntry 1])] })
      (fun t => decide (t.subs = [(dataKey, [syncEntry 1, asyncEntry 2])] ∧ t.out = [.response [0x30, 7, 0]])) = true ∧
    leaves (exec (.subscribe 7 0x207 0xFFFF 1 1) { fresh [] with subs := [(dataKey, [syncEntry 1])] })
      (fun t => decide (t.subs = [(dataKey, [syncEntry 1])] ∧ t.out = [.response [0x30, 7, 0]])) = true := by decide

/-- V-SUB-6; V-SUB-14: the internal entry does not count, and the key is full. -/
theorem test_subscribe_errors :
    leaves (exec (.subscribe 7 0x207 0xFFFF 1 2) State.reset) (fun t => decide (t.out = [.response [0x30, 7, 2]])) = true ∧
    leaves (exec (.subscribe 7 0x207 0xAAAA 5 0)
        { armedState [] 9 none with cfg := { defaultConfig with maxListeners := some 1 } })
      (fun t => decide (t.out = [.response [0x30, 7, 6]])) = true := by decide

/-- V-SUB-7, V-SUB-9. -/
theorem test_unsubscribe :
    leaves (exec (.unsubscribe 7 0x207 0xFFFF 1 0) { fresh [] with subs := [(dataKey, [syncEntry 1, asyncEntry 2])] })
      (fun t => decide (t.subs = [(dataKey, [asyncEntry 2])])) = true ∧
    leaves (exec (.unsubscribe 7 0x207 0xFFFF 2 0) { fresh [] with subs := [(dataKey, [asyncEntry 2])] })
      (fun t => decide (t.subs = [] ∧ t.out = [.response [0x31, 7, 0]])) = true := by decide

/-! ### The read engine and the dispatch engine -/

/-- F1 in the batch; V-RX-11 under CLAMP: the length byte 9 becomes 8. -/
theorem test_dataFrame :
    leaves (exec (.dataFrame 0 1 0 0x207 8 (zeros 8) 0x709F5E4F) (fresh [])) (fun t => decide (t.batch = [f1Record])) = true ∧
    leaves (exec (.dataFrame 0 1 0 0x207 9 (zeros 8) 0x829FF429) { fresh [] with cfg := { defaultConfig with dlcPolicy := .clamp } })
      (fun t => decide (t.batch.map DecodedFrame.length = [8])) = true := by decide +kernel

/-- F3 in the batch; V-RX-5: a wrong checksum is dropped. -/
theorem test_ackFrame :
    leaves (exec (.ackFrame 0x1234 1 0 0x207 0 (zeros 8) 0x90C07EEE) (fresh [])) (fun t => decide (t.batch = [f3Record])) = true ∧
    leaves (exec (.ackFrame 0x1234 1 0 0x207 0 (zeros 8) 0x91C07EEE) (fresh [])) (fun t => decide (t.batch = [])) = true := by
  decide +kernel

/-- V-RX-3: F1 and a tail of five bytes. -/
theorem test_deframe_tail :
    leaves (step (readingState [.transfer 0 (f1 ++ zeros 5)]))
      (fun t => decide (t.batch = [f1Record] ∧ t.rdState = .dispatching ∧ t.rxLen = 30)) = true := by decide +kernel

/-- V-RX-4: one byte before F1 loses it. -/
theorem test_deframe_shifted :
    leaves (step (readingState [.transfer 0 ([0] ++ f1)])) (fun t => decide (t.batch = [] ∧ t.rdState = .idle)) = true := by
  decide +kernel

/-- V-DSP-2: the synchronous listener 2 first, though listener 1 stands before it. -/
theorem test_dispatch_sync :
    leaves (step (dispatchingState [.dispatch] [] (.sync f1Record [asyncEntry 1, syncEntry 2, syncEntry 3, asyncEntry 4] 0 false)))
      (fun t => decide (t.out = [.deliver (.ext 2) f1Record])) = true := by decide

/-- V-DSP-2: then the asynchronous listeners 1 and 4 in one step. -/
theorem test_dispatch_async :
    leaves (step (dispatchingState [.dispatch] [] (.sync f1Record [asyncEntry 1, syncEntry 2, syncEntry 3, asyncEntry 4] 3 false)))
      (fun t => decide (t.out = [.deliver (.ext 1) f1Record, .deliver (.ext 4) f1Record])) = true := by decide

/-- V-ACK-16: the stale delivery to `int(0)` captures nothing for generation 1. -/
theorem test_capture_stale :
    leaves (step { dispatchingState [.dispatch] [] (.sync f3Record [syncEntry 9, internalEntry 0] 1 false) with
        corr := .armed { correlation 50 none with gen := 1 } })
      (fun t => decide (t.corr = .armed { correlation 50 none with gen := 1 } ∧
        t.dispState = .sync f3Record [syncEntry 9, internalEntry 0] 2 false)) = true := by decide

/-- V-DSP-8, P5 step 5: STOP abandons an asynchronous wait and the rest of the batch. -/
theorem test_stop_async :
    leaves (step { dispatchingState [.stopLoop] [f12Record] (.async f1Record [.ext 1]) with stopReq := true })
      (fun t => decide (t.batch = [] ∧ t.dispState = .idle ∧ t.running = false)) = true := by decide

/-- R450: `rst` returns everything to its reset value and answers nothing. -/
theorem test_reset :
    step { armedState [.assertReset] 3 none with cmdState := .exec [0x04, 1], stopReq := true } = .next State.reset := rfl

/-- What was issued before a reset: one transaction of each kind. -/
def pastLog : List OutEvent := [.usbOpen 0 0 1, .usbRead 500 10, .usbWrite f1, .deliver (.ext 1) f1Record]

/-- After the reset one more of each kind was issued, and each is outstanding. -/
def outstandingState (moves : List Move) : State :=
  { readingState moves with
    cmdState := .exec [0x01, 7], outPort := .busy, dispState := .async f1Record [.ext 1], out := pastLog ++ pastLog }

/-- R451: late completions of the four transactions issued before the reset change nothing, though others are outstanding. -/
theorem test_late_completions :
    step (outstandingState [.usbOpened 1 true]) = .next (outstandingState []) ∧
    step (outstandingState [.transfer 1 f1]) = .next (outstandingState []) ∧
    step (outstandingState [.writeDone 1 25]) = .next (outstandingState []) ∧
    step (outstandingState [.listenerDone 1 1]) = .next (outstandingState []) := ⟨rfl, rfl, rfl, rfl⟩

/-- R260, R267, R275, R315: those of the outstanding ones are taken. -/
theorem test_awaited_completions :
    leaves (step (outstandingState [.usbOpened 2 true])) (fun t => decide (t.cmdState = .idle)) = true ∧
    leaves (step (outstandingState [.readTimeout 2])) (fun t => decide (t.rdState = .idle)) = true ∧
    leaves (step (outstandingState [.writeDone 2 25])) (fun t => decide (t.outPort = .done 25)) = true ∧
    leaves (step (outstandingState [.listenerDone 1 2])) (fun t => decide (t.dispState = .idle)) = true := by decide

/-- The reset state's buffers are canonical. -/
theorem test_reset_memory : Memory.wf State.reset.rxBuf = true ∧ Memory.wf State.reset.txBuf = true := by decide

/-! ### Witnesses of the statements' hypotheses: encodings and steps -/

theorem test_witness_DecodeOfEncode :
    (Instr.connect 0).wellFormed = true ∧ (Instr.disconnect 0).wellFormed = true ∧ (Instr.start 0).wellFormed = true ∧
    (Instr.stop 0).wellFormed = true ∧ (Instr.status 0).wellFormed = true ∧ (Instr.encode 0 0 0 0 0 0 (zeros 8)).wellFormed = true ∧
    (Instr.decode 0 (zeros 255)).wellFormed = true ∧ (Instr.decode 0 []).wellFormed = true ∧
    (Instr.checksum 0 (zeros 21)).wellFormed = true ∧ (Instr.send 0 0 0 0 0 0 (zeros 8)).wellFormed = true ∧
    (Instr.sendAcked 0 0 0 0 0 0 (zeros 8)).wellFormed = true ∧ (Instr.subscribe 0 0 0 0 0).wellFormed = true ∧
    (Instr.unsubscribe 0 0 0 0 0).wellFormed = true ∧ (Instr.dataFrame 0 0 0 0 0 (zeros 8) 0).wellFormed = true ∧
    (Instr.ackFrame 0 0 0 0 0 (zeros 8) 0).wellFormed = true := by decide +kernel

theorem test_witness_EncodeOfDecode :
    decodeAs false sendDesc = .ok (.send 1 1 0 0x207 8 8 (zeros 8)) ∧
    decodeAs true f3 = .ok (.ackFrame 0x1234 1 0 0x207 0 (zeros 8) 0x90C07EEE) := ⟨rfl, rfl⟩

theorem test_witness_BadDescriptorAnswered :
    (fresh [.descriptor []]).agenda = [.descriptor []] ∧ (fresh []).cmdState = .idle ∧ legalDescriptor [] = false ∧
    legalDescriptor [0x06, 0x07] = false ∧ legalDescriptor [0x01] = false ∧ legalDescriptor [0x01, 0x05, 0x00] = false ∧
    legalDescriptor [0x11, 0x01] = false ∧ legalDescriptor [0x11, 0x01, 0x02, 0xAA] = false := by decide

theorem test_witness_StepRunsDescriptor :
    (fresh [.descriptor [0x05, 1]]).agenda = [.descriptor [0x05, 1]] ∧ (fresh [.descriptor [0x05, 1]]).cmdState = .idle ∧
    decodeDescriptor [0x05, 1] = .ok (.status 1) ∧
    (executing [.descriptor [0x05, 1]] [0x01, 0]).agenda = [.descriptor [0x05, 1]] ∧
    (executing [.descriptor [0x05, 1]] [0x01, 0]).cmdState = .exec [0x01, 0] := ⟨rfl, rfl, rfl, rfl, rfl⟩

theorem test_witness_StepRunsFrame :
    (readingState [.transfer 0 f3]).agenda = [.transfer 0 f3] ∧ (readingState [.transfer 0 f3]).rdState = .readPending ∧
    (readingState [.transfer 0 f3]).stopReq = false ∧ readsIssued (readingState [.transfer 0 f3]).out = 0 ∧
    decodeFrame f3 = .ok (.ackFrame 0x1234 1 0 0x207 0 (zeros 8) 0x90C07EEE) := ⟨rfl, rfl, rfl, rfl, rfl⟩

theorem test_witness_StepAlwaysGoes : step (fresh [.strobe]) = .next (fresh []) := rfl

/-! ### Witnesses: the codec -/

/-- Bytes past the end of both strings agree, so it is enough to compare the others. -/
theorem agree_beyond {A B : List Byte} {n a b : Nat} (hA : A.length ≤ n) (hB : B.length ≤ n)
    (h : ∀ j < n, j ≠ a → j ≠ b → byteAt A j = byteAt B j) : ∀ j, j ≠ a → j ≠ b → byteAt A j = byteAt B j := by
  intro j ha hb
  rcases Nat.lt_or_ge j n with hj | hj
  · exact h j hj ha hb
  · exact (List.getD_eq_default _ _ (hA.trans hj)).trans (List.getD_eq_default _ _ (hB.trans hj)).symm

/-- Two inputs that differ in offsets 0 and 1, and two that differ in offset 20 alone. -/
theorem test_witness_ChecksumProperties :
    f1Head.length = 21 ∧ f3Head.length = 21 ∧ ([0, 1] ++ f1Head.drop 2).length = 21 ∧ [0, 1] ++ f1Head.drop 2 ≠ f1Head ∧
    (f1Head.take 20 ++ [9]).length = 21 ∧ f1Head.take 20 ++ [9] ≠ f1Head ∧
    (∀ j, j ≠ 0 → j ≠ 0 + 1 → byteAt ([0, 1] ++ f1Head.drop 2) j = byteAt f1Head j) ∧
    (∀ j, j ≠ 20 → j ≠ 20 + 1 → byteAt (f1Head.take 20 ++ [9]) j = byteAt f1Head j) :=
  ⟨rfl, rfl, rfl, by decide, rfl, by decide, agree_beyond (n := 21) (by decide) (by decide) (by decide),
    agree_beyond (n := 21) (by decide) (by decide) (by decide)⟩

theorem test_witness_EncodeResult :
    (zeros 8).length = 8 ∧ ¬ argumentsOk 9 0 ∧ ¬ argumentsOk 8 9 ∧ ¬ argumentsOk 2 3 ∧ ¬ argumentsOk 255 255 ∧ argumentsOk 8 8 ∧
    argumentsOk 8 0 ∧ argumentsOk 0 0 := by unfold argumentsOk; decide

theorem test_witness_EncodedFrameDecodes :
    (zeros 8).length = 8 ∧ (8 : Byte) ≤ 8 ∧ (8 : Byte) ≤ 8 ∧ (0 : Byte) ≤ 8 ∧ (0 : Byte) ≤ 0 := by decide

/-- One input for each clause: a wrong length (24, 26, 0), a wrong marker, a length byte above 8 under REJECT (9), a wrong checksum
under REJECT with length byte 8 and under CLAMP with 9, and a valid frame with length byte 8, and with 9 under CLAMP. -/
theorem test_witness_DecodeResult :
    (f1.take 24).length ≠ 25 ∧ (f1 ++ [0]).length ≠ 25 ∧ ([] : List Byte).length ≠ 25 ∧
    (([0xFE] ++ f1.drop 1).length = 25 ∧ le16 ([0xFE] ++ f1.drop 1) 0 ≠ 0xFFFF ∧ le16 ([0xFE] ++ f1.drop 1) 0 ≠ 0xAAAA) ∧
    (f8.length = 25 ∧ le16 f8 0 = 0xFFFF ∧ 8 < byteAt f8 12 ∧ State.reset.cfg.dlcPolicy = .reject) ∧
    ((f1.take 24 ++ [0]).length = 25 ∧ le16 (f1.take 24 ++ [0]) 0 = 0xFFFF ∧ byteAt (f1.take 24 ++ [0]) 12 ≤ 8 ∧
      le32 (f1.take 24 ++ [0]) 21 ≠ crc32Ssb tMsb ((f1.take 24 ++ [0]).take 21)) ∧
    (le16 f3 0 = 0xAAAA ∧ byteAt f1 12 = 8 ∧ le32 f1 21 = crc32Ssb tMsb (f1.take 21) ∧ le32 f8 21 = crc32Ssb tMsb (f8.take 21)) := by
  decide +kernel

theorem test_witness_DecodeRecordLayout : FrameOk f1Record ∧ FrameOk f3Record := by unfold FrameOk; decide

/-- F8 (length byte 9), the same with another checksum, and the length byte 255. -/
theorem test_witness_LongLengthByte :
    f8.length = 25 ∧ le16 f8 0 = 0xFFFF ∧ 8 < byteAt f8 12 ∧ defaultConfig.dlcPolicy = .reject ∧
    ({ defaultConfig with dlcPolicy := .clamp } : Config).dlcPolicy = .clamp ∧ le32 f8 21 = crc32Ssb tMsb (f8.take 21) ∧
    (f8.take 21 ++ zeros 4).length = 25 ∧ le32 (f8.take 21 ++ zeros 4) 21 ≠ crc32Ssb tMsb ((f8.take 21 ++ zeros 4).take 21) ∧
    8 < byteAt (f8.take 12 ++ [255] ++ f8.drop 13) 12 := by decide +kernel

/-- F1 with its payload bytes at offsets 19 and 20 changed. -/
def f1Tampered : List Byte := f1.take 19 ++ [1, 2] ++ f1.drop 21

/-- F1 cut short, F1 with the marker 0xFFFE, F1 with byte 24 changed, and F1 with its payload bytes at offsets 19 and 20 changed. -/
theorem test_witness_TamperedFrameRejected :
    (f1.take 24).length ≠ 25 ∧
    (([0xFE] ++ f1.drop 1).length = 25 ∧ le16 ([0xFE] ++ f1.drop 1) 0 ≠ 0xFFFF ∧ le16 ([0xFE] ++ f1.drop 1) 0 ≠ 0xAAAA) ∧
    decodeBytes defaultConfig f1 = .ok f1Record ∧
    ((f1.take 24 ++ [0x71]).length = 25 ∧ f1.take 24 ++ [0x71] ≠ f1 ∧ (f1.take 24 ++ [0x71]).take 21 = f1.take 21) ∧
    defaultConfig.crcTable = tMsb ∧
    (f1Tampered.length = 25 ∧ f1Tampered ≠ f1 ∧ f1Tampered.drop 21 = f1.drop 21 ∧ le16 f1Tampered 0 = 0xFFFF ∧
      byteAt f1Tampered 12 ≤ 8) ∧
    ∀ j, j ≠ 19 → j ≠ 19 + 1 → byteAt f1Tampered j = byteAt f1 j := by
  refine ⟨by decide, by decide, ?_, by decide, rfl, by decide, agree_beyond (n := 25) (by decide) (by decide) (by decide)⟩
  exact of_decide_eq_true (by decide +kernel : decide (decodeBytes defaultConfig f1 = .ok f1Record) = true)

theorem test_witness_RenderedBytes : (0 : Nat) < [0xAB#8, 0xCD].length ∧ 0 + 1 < [0xAB#8, 0xCD].length ∧ 1 < [0xAB#8, 0xCD].length := by
  decide

/-- The length bytes 8 and 9, right and wrong checksums. -/
theorem test_witness_DataFrameResult :
    (zeros 8).length = 8 ∧ (0x709F5E4F : Word) = crc32Ssb State.reset.cfg.crcTable f1Head ∧ (8 : Byte) ≤ 8 ∧
    (0x709F5E4E : Word) ≠ crc32Ssb State.reset.cfg.crcTable f1Head ∧ ((8 : Byte) < 9 ∧ State.reset.cfg.dlcPolicy = .reject) ∧
    (0x829FF429 : Word) = crc32Ssb State.reset.cfg.crcTable (f8.take 21) := by decide +kernel

theorem test_witness_AckFrameResult :
    (zeros 8).length = 8 ∧ (0x90C07EEE : Word) = crc32Ssb State.reset.cfg.crcTable f3Head ∧ (0 : Byte) ≤ 8 ∧
    (0x90C07EEF : Word) ≠ crc32Ssb State.reset.cfg.crcTable f3Head ∧ ((8 : Byte) < 9 ∧ State.reset.cfg.dlcPolicy = .reject) ∧
    (∃ c : Word, c = crc32Ssb State.reset.cfg.crcTable (f3Head.take 12 ++ [9] ++ f3Head.drop 13)) ∧
    ({ State.reset with cfg := { defaultConfig with dlcPolicy := .clamp } } : State).cfg.dlcPolicy = .clamp := by
  refine ⟨rfl, ?_, by decide, ?_, by decide, ⟨_, rfl⟩, rfl⟩
  · decide +kernel
  · decide +kernel

/-! ### Witnesses: the lifecycle and the write primitive -/

theorem test_witness_ConnectResult :
    decodeDescriptor [0x01, 7] = .ok (.connect 7) ∧ (executing [.usbOpened 0 true] [0x01, 7]).cmdState = .exec [0x01, 7] ∧
    (executing [.usbOpened 0 true] [0x01, 7]).agenda = [.usbOpened 0 true] ∧ (executing [.usbOpened 0 true] [0x01, 7]).devPresent = true ∧
    ({ executing [.usbOpened 0 true] [0x01, 7] with devPresent := false } : State).devPresent = false ∧
    (executing [.usbOpened 0 false] [0x01, 7]).agenda = [.usbOpened 0 false] ∧ opensIssued (executing [] [0x01, 7]).out = 0 :=
  ⟨rfl, rfl, rfl, rfl, rfl, rfl, rfl⟩

theorem test_witness_DisconnectResult :
    State.reset.running = false ∧ (readingState []).running = true ∧ decodeDescriptor [0x02, 7] = .ok (.disconnect 7) ∧
    (executing [.resume] [0x02, 7]).cmdState = .exec [0x02, 7] ∧ (executing [.resume] [0x02, 7]).agenda = [.resume] ∧
    (executing [.resume] [0x02, 7]).running = false ∧
    ({ executing [.resume] [0x02, 7] with running := true } : State).running = true := ⟨rfl, rfl, rfl, rfl, rfl, rfl, rfl⟩

theorem test_witness_StartResult :
    ¬ (State.reset.connected = true ∧ State.reset.devPresent = true) ∧
    ((readingState []).connected = true ∧ (readingState []).devPresent = true ∧ (readingState []).running = true) ∧
    ((connectedState []).connected = true ∧ (connectedState []).devPresent = true ∧ (connectedState []).running = false) ∧
    ¬ (({ connectedState [] with devPresent := false } : State).connected = true ∧
      ({ connectedState [] with devPresent := false } : State).devPresent = true) ∧
    (LoopInv (connectedState []) ∧ ∃ t, exec (.start 7) (connectedState []) = .next t) :=
  ⟨by decide, by decide, by decide, by decide, ⟨fun _ => ⟨rfl, rfl⟩, fun _ => ⟨rfl, rfl⟩⟩, _, rfl⟩

theorem test_witness_StopResult :
    State.reset.running = false ∧ (readingState []).running = true ∧ decodeDescriptor [0x04, 7] = .ok (.stop 7) ∧
    (executing [.resume] [0x04, 7]).cmdState = .exec [0x04, 7] ∧ (executing [.resume] [0x04, 7]).agenda = [.resume] ∧
    (executing [.resume] [0x04, 7]).running = false ∧
    ({ executing [.resume] [0x04, 7] with running := true } : State).running = true := ⟨rfl, rfl, rfl, rfl, rfl, rfl, rfl⟩

theorem test_witness_SendResult :
    (zeros 8).length = 8 ∧ ¬ argumentsOk 9 0 ∧ argumentsOk 8 8 ∧ ¬ (State.reset.connected = true ∧ State.reset.devPresent = true) ∧
    ((connectedState []).connected = true ∧ (connectedState []).devPresent = true) ∧
    decodeDescriptor sendDesc = .ok (.send 1 1 0 0x207 8 8 (zeros 8)) ∧
    (∀ w : Fin 26, ({ executing [.resume] sendDesc with outPort := .done w } : State).outPort = .done w ∧
      ({ executing [.resume] sendDesc with outPort := .done w } : State).cmdState = .exec sendDesc ∧
      ({ executing [.resume] sendDesc with outPort := .done w } : State).agenda = [.resume]) := by
  refine ⟨rfl, ?_, ?_, by decide, by decide, rfl, fun _ => ⟨rfl, rfl, rfl⟩⟩
  · unfold argumentsOk; decide
  · unfold argumentsOk; decide

theorem test_witness_WriteCompletionAndDeviceChange :
    ({ executing [.writeDone 0 0] sendDesc with outPort := .busy } : State).agenda = [.writeDone 0 0] ∧
    ({ executing [.writeDone 0 25] sendDesc with outPort := .busy } : State).outPort = .busy ∧
    writesIssued (executing [] sendDesc).out = 0 ∧ writesIssued (outstandingState []).out = 2 ∧ (outstandingState []).outPort = .busy ∧
    (fresh [.writeDone 0 25]).outPort ≠ .busy ∧ (fresh [.devChange false]).agenda = [.devChange false] := by decide

/-! ### Witnesses: the subscription table -/

/-- LISTENER_ID_BITS = 8 with LID 0x0100 and 0x00FF; MODE 2; a duplicate; one key of one; one listener of one; room. -/
theorem test_witness_SubscribeResult :
    ((0x0100 : Half).toNat / 2 ^ 8 ≠ 0 ∧ (2 : Byte).toNat / 2 ≠ 0) ∧
    ¬ ((0x00FF : Half).toNat / 2 ^ 8 ≠ 0 ∨ (1 : Byte).toNat / 2 ≠ 0) ∧
    (∃ e ∈ SubTable.listeners [(dataKey, [syncEntry 1])] dataKey, e.lid = .ext 1) ∧
    ¬ (∃ e ∈ SubTable.listeners [(dataKey, [syncEntry 1])] dataKey, e.lid = .ext 2) ∧
    (SubTable.find [(dataKey, [syncEntry 1])] ack207 = none ∧ 1 ≤ ([(dataKey, [syncEntry 1])].filter fun kl => kl.2.any external).length ∧
      ([(dataKey, [internalEntry 0])].filter fun kl => kl.2.any external).length = 0) ∧
    (SubTable.find [(dataKey, [syncEntry 1])] dataKey = some [syncEntry 1] ∧ 1 ≤ ([syncEntry 1].filter external).length ∧
      ([internalEntry 0].filter external).length = 0) ∧
    State.reset.cfg.maxKeys = none ∧ State.reset.cfg.maxListeners = none := by decide

/-- The table of V-ACK-15 is well-formed. -/
theorem armedState_table (moves : List Move) (left : Nat) (captured : Option Word) : TableInv (armedState moves left captured) := by
  have ordered : tableOrdered Key.code [(ack207, [syncEntry 9, internalEntry 0]), (dataKey, [asyncEntry 1])] = true := by decide
  refine ⟨ordered, fun k l h => ?_⟩
  simp only [armedState, List.mem_cons, Prod.mk.injEq, List.not_mem_nil, or_false] at h
  rcases h with ⟨rfl, rfl⟩ | ⟨rfl, rfl⟩
  · refine ⟨by decide, by decide, fun e he => ?_⟩
    simp only [List.mem_cons, List.not_mem_nil, or_false] at he
    rcases he with rfl | rfl
    · trivial
    · exact ⟨rfl, _, rfl, rfl, rfl⟩
  · refine ⟨by decide, by decide, fun e he => ?_⟩
    simp only [List.mem_cons, List.not_mem_nil, or_false] at he
    rcases he with rfl
    trivial

theorem test_witness_UnsubscribeResult :
    TableInv (armedState [] 9 none) ∧ (9 : Half).toNat / 2 ^ (armedState [] 9 none).cfg.listenerIdBits = 0 ∧
    (0x0100 : Half).toNat / 2 ^ 8 ≠ 0 := ⟨armedState_table _ _ _, by decide, by decide⟩

theorem test_witness_RepeatedCommandChangesNothing :
    TableInv (armedState [] 9 none) ∧ BufferInv (armedState [] 9 none) ∧
    (Instr.encode 7 1 0 0x207 8 8 (zeros 8)).wellFormed = true ∧ (Instr.unsubscribe 7 0x207 0xAAAA 9 0).wellFormed = true ∧
    (∃ t, exec (.encode 7 1 0 0x207 8 8 (zeros 8)) (armedState [] 9 none) = .next t) ∧
    ∃ t, exec (.unsubscribe 7 0x207 0xAAAA 9 0) (armedState [] 9 none) = .next t := by
  refine ⟨armedState_table _ _ _, ?_, rfl, rfl, ⟨_, rfl⟩, ⟨_, rfl⟩⟩
  exact ⟨rfl, rfl, fun _ _ => rfl, fun _ _ => rfl, fun a h => absurd h (Nat.not_lt_zero a), by decide, by decide⟩

/-! ### Witnesses: the read engine -/

theorem test_witness_ReadIssued :
    ({ readingState [.issueRead] with rdState := .idle } : State).agenda = [.issueRead] ∧
    ({ readingState [.issueRead] with rdState := .idle } : State).running = true ∧
    ({ readingState [.issueRead] with rdState := .idle } : State).stopReq = false ∧
    (fresh [.issueRead]).running = false ∧ ({ readingState [.issueRead] with stopReq := true } : State).stopReq = true ∧
    (readingState [.issueRead]).rdState ≠ .idle ∧ (readingState [.strobe]).agenda = [.strobe] := by decide

/-- Transfers of 1 and of 500 bytes. -/
theorem test_witness_DeframeIsSlicing :
    (readingState [.transfer 0 (zeros 500)]).agenda = [.transfer 0 (zeros 500)] ∧ (readingState []).rdState = .readPending ∧
    readsIssued (readingState [.transfer 0 (zeros 500)]).out = 0 ∧ (readingState []).stopReq = false ∧ 1 ≤ (zeros 1).length ∧
    (zeros 500).length ≤ 500 :=
  ⟨rfl, rfl, rfl, rfl, by decide, (List.length_replicate ..).le⟩

/-- No bytes for the outstanding read, for none, for an earlier one; then bytes for none, for an earlier one, after a stop request, and
501 of them. -/
theorem test_witness_EmptyReadRetries :
    (readingState [.readTimeout 0]).agenda = [.readTimeout 0] ∧ (readingState [.readError 0]).agenda = [.readError 0] ∧
    (readingState [.transfer 0 []]).agenda = [.transfer 0 []] ∧ (readingState []).rdState = .readPending ∧
    readsIssued (readingState []).out = 0 ∧ (fresh [.readTimeout 0]).rdState ≠ .readPending ∧
    1 ≠ readsIssued (outstandingState [.readTimeout 1]).out ∧ (outstandingState [.readTimeout 1]).rdState = .readPending ∧
    (readingState [.transfer 0 (zeros 1)]).agenda = [.transfer 0 (zeros 1)] ∧ zeros 1 ≠ [] ∧
    (fresh [.transfer 0 (zeros 1)]).rdState ≠ .readPending ∧ 1 ≠ readsIssued (outstandingState [.transfer 1 (zeros 1)]).out ∧
    ({ readingState [.transfer 0 (zeros 1)] with stopReq := true } : State).stopReq = true ∧ 500 < (zeros 501).length := by
  refine ⟨rfl, rfl, rfl, rfl, rfl, by decide, by decide, rfl, rfl, by decide, by decide, by decide, rfl, ?_⟩
  rw [zeros, List.length_replicate]
  decide

theorem test_witness_BatchEnds :
    (dispatchingState [.endBatch] [] .idle).agenda = [.endBatch] ∧ (dispatchingState [.endBatch] [] .idle).rdState = .dispatching ∧
    (dispatchingState [.endBatch] [] .idle).batch = [] ∧ (dispatchingState [.endBatch] [] .idle).dispState = .idle ∧
    (dispatchingState [.endBatch] [f1Record] .idle).batch ≠ [] ∧
    (dispatchingState [.endBatch] [] (.async f1Record [.ext 1])).dispState ≠ .idle := by decide

/-- One state for each row: no read, a read outstanding, between dispatches, an asynchronous wait, a synchronous phase at its end, one
with a listener left, and one that waits. -/
theorem test_witness_StopStepRows :
    ({ readingState [.stopLoop] with stopReq := true } : State).agenda = [.stopLoop] ∧
    ({ readingState [.stopLoop] with stopReq := true } : State).stopReq = true ∧
    ({ readingState [.stopLoop] with rdState := .idle } : State).rdState = .idle ∧ (readingState [.stopLoop]).rdState = .readPending ∧
    (dispatchingState [.stopLoop] [f1Record] .idle).rdState = .dispatching ∧
    (dispatchingState [.stopLoop] [] (.async f1Record [.ext 1])).dispState = .async f1Record [.ext 1] ∧
    (∀ e ∈ [syncEntry 1, asyncEntry 2].drop 1, e.mode = .async) ∧ (∃ e ∈ [syncEntry 1, asyncEntry 2].drop 0, e.mode = .sync) ∧
    (dispatchingState [.stopLoop] [] (.sync f1Record [syncEntry 1] 0 true)).dispState = .sync f1Record [syncEntry 1] 0 true := by
  decide

theorem test_witness_ReadsAndDeliveriesAreInTurn :
    ∃ t, step (dispatchingState [.dispatch] [] (.sync f1Record [syncEntry 1] 0 false)) = .next t ∧
      t.out = [.deliver (.ext 1) f1Record] := ⟨_, rfl, rfl⟩

/-! ### Witnesses: the dispatch engine -/

theorem test_witness_DispatchStarts :
    (dispatchingState [.dispatch] [f1Record] .idle).agenda = [.dispatch] ∧
    (dispatchingState [.dispatch] [f1Record] .idle).rdState = .dispatching ∧
    (dispatchingState [.dispatch] [f1Record] .idle).batch = [f1Record] ∧
    (dispatchingState [.dispatch] [f1Record] .idle).stopReq = false ∧
    SubTable.listeners (dispatchingState [.dispatch] [f1Record] .idle).subs { marker := f1Record.marker, identifier := f1Record.identifier } = [] ∧
    SubTable.listeners [(dataKey, [syncEntry 1])] { marker := f1Record.marker, identifier := f1Record.identifier } ≠ [] ∧
    ({ dispatchingState [.dispatch] [f1Record] .idle with stopReq := true } : State).stopReq = true := by decide

/-- The list of V-DSP-2: from index 0 the asynchronous entry is passed over; from index 2 the entry itself is taken. -/
theorem test_witness_SyncDelivery :
    let l := [asyncEntry 1, syncEntry 2, syncEntry 3, asyncEntry 4]
    (0 ≤ 1 ∧ l[1]? = some { lid := .ext 2, mode := .sync } ∧ ∀ i e, 0 ≤ i → i < 1 → l[i]? = some e → e.mode = .async) ∧
    (2 ≤ 2 ∧ l[2]? = some { lid := .ext 3, mode := .sync } ∧ ∀ i e, 2 ≤ i → i < 2 → l[i]? = some e → e.mode = .async) ∧
    (dispatchingState [.dispatch] [] (.sync f1Record l 0 false)).dispState = .sync f1Record l 0 false ∧
    (dispatchingState [.listenerDone 2 0] [] (.sync f1Record l 0 true)).agenda = [.listenerDone 2 0] ∧
    deliveriesTo 2 (dispatchingState [] [] (.sync f1Record l 0 true)).out = 0 ∧ (7 : Half) ≠ 2 ∧
    1 ≠ deliveriesTo 1 (outstandingState []).out := by
  intro l
  refine ⟨⟨by decide, rfl, ?_⟩, ⟨by decide, rfl, ?_⟩, rfl, rfl, rfl, by decide, by decide⟩
  · intro i e _ h he
    obtain rfl : i = 0 := by omega
    exact Option.some.inj he ▸ rfl
  · intro i e h1 h2
    omega

theorem test_witness_AsyncDelivery :
    let l := [asyncEntry 1, syncEntry 2, syncEntry 3, asyncEntry 4]
    (dispatchingState [.dispatch] [] (.sync f1Record l 3 false)).agenda = [.dispatch] ∧
    (dispatchingState [.dispatch] [] (.sync f1Record l 3 false)).dispState = .sync f1Record l 3 false ∧
    (∀ e ∈ l.drop 3, e.mode = .async) ∧ (∀ e ∈ [syncEntry 1].drop 1, e.mode = .async) ∧
    (dispatchingState [.dispatch] [] (.sync f1Record l 3 false)).stopReq = false := by decide

theorem test_witness_AsyncCompletion :
    (dispatchingState [.listenerDone 1 0] [] (.async f1Record [.ext 1, .ext 4])).agenda = [.listenerDone 1 0] ∧
    deliveriesTo 1 (dispatchingState [] [] (.async f1Record [.ext 1, .ext 4])).out = 0 ∧
    1 ≠ deliveriesTo 1 (outstandingState []).out ∧ (outstandingState []).dispState = .async f1Record [.ext 1] ∧
    Handle.ext 1 ∈ [Handle.ext 1, .ext 4] ∧ Handle.ext 7 ∉ [Handle.ext 1, .ext 4] ∧ ∀ h ∈ [Handle.ext 1], h = .ext 1 := by decide

theorem test_witness_SnapshotFixedAtLookup :
    (∃ t, step { dispatchingState [.dispatch] [f1Record] .idle with subs := [(dataKey, [syncEntry 1])] } = .next t ∧
      t.dispState = .sync f1Record [syncEntry 1] 0 false) ∧
    ∃ t, step (dispatchingState [.dispatch] [] (.sync f1Record [syncEntry 1] 0 false)) = .next t ∧
      t.dispState = .sync f1Record [syncEntry 1] 0 true := ⟨⟨_, rfl, rfl⟩, ⟨_, rfl, rfl⟩⟩

theorem test_witness_SyncWaitEndsOnlyByCompletion :
    (dispatchingState [.listenerDone 1 0] [] (.sync f1Record [syncEntry 1] 0 true)).dispState = .sync f1Record [syncEntry 1] 0 true ∧
    ∃ t, step (dispatchingState [.listenerDone 1 0] [] (.sync f1Record [syncEntry 1] 0 true)) = .next t ∧
      t.dispState ≠ (dispatchingState [.listenerDone 1 0] [] (.sync f1Record [syncEntry 1] 0 true)).dispState :=
  ⟨rfl, _, rfl, by decide⟩

/-! ### Witnesses: the correlator -/

theorem test_witness_SendAckedChecks :
    (zeros 8).length = 8 ∧ (armedState [] 9 none).corr ≠ .idle ∧ State.reset.corr = .idle ∧ ¬ argumentsOk 9 0 ∧ ¬ argumentsOk 8 9 ∧
    argumentsOk 8 8 ∧ ¬ (State.reset.connected = true ∧ State.reset.devPresent = true) ∧
    ((connectedState []).corr = .idle ∧ (connectedState []).connected = true ∧ (connectedState []).devPresent = true) := by
  unfold argumentsOk
  decide

theorem test_witness_ArmingStep :
    decodeDescriptor sendAckedDesc = .ok (.sendAcked 2 1 0 0x207 0 0 (zeros 8)) ∧
    ∀ w : Fin 26,
      let s : State := { executing [.resume] sendAckedDesc with outPort := .done w, corr := .writing (correlation 100 none) }
      s.cmdState = .exec sendAckedDesc ∧ s.outPort = .done w ∧ s.corr = .writing (correlation 100 none) ∧ s.agenda = [.resume] :=
  ⟨rfl, fun _ => ⟨rfl, rfl, rfl, rfl⟩⟩

/-- F3 and the internal entry behind an external one; then F1, which is no ACK, and a correlation that has captured. -/
theorem test_witness_CaptureRule :
    let s (f : DecodedFrame) (captured : Option Word) : State :=
      { dispatchingState [.dispatch] [] (.sync f [syncEntry 9, internalEntry 0] 1 false) with
        corr := .armed (correlation 50 captured) }
    ((s f3Record none).agenda = [.dispatch] ∧
      (s f3Record none).dispState = .sync f3Record [syncEntry 9, internalEntry 0] 1 false ∧
      1 ≤ 1 ∧ [syncEntry 9, internalEntry 0][1]? = some { lid := .int 0, mode := .sync } ∧
      (∀ i e, 1 ≤ i → i < 1 → [syncEntry 9, internalEntry 0][i]? = some e → e.mode = .async) ∧
      (s f3Record none).corr = .armed (correlation 50 none) ∧ (correlation 50 none).gen = 0 ∧
      (correlation 50 none).captured = none ∧ f3Record.marker = 0xAAAA ∧ f3Record.identifier = (correlation 50 none).identifier) ∧
    (∀ c, (s f1Record none).corr = .armed c → c.gen ≠ 0 ∨ c.captured ≠ none ∨ f1Record.marker ≠ 0xAAAA) ∧
    ∀ c, (s f3Record (some 5)).corr = .armed c → c.captured ≠ none := by
  intro s
  refine ⟨⟨rfl, rfl, by decide, rfl, fun i e h1 h2 => by omega, rfl, rfl, rfl, by decide, by decide⟩, ?_, ?_⟩
  · intro c _
    exact .inr (.inr (by decide))
  · intro c hc
    obtain rfl := CorrState.armed.inj hc
    decide

theorem test_witness_PollRule :
    (armedState [.strobe] 1 (some 0x1234)).agenda = [.strobe] ∧ TableInv (armedState [.strobe] 1 (some 0x1234)) ∧
    TableInv (armedState [.strobe] 1 none) ∧ TableInv (armedState [.strobe] 2 none) ∧
    (armedState [.strobe] 1 (some 0x1234)).corr = .armed (correlation 1 (some 0x1234)) ∧
    (armedState [.strobe] 1 none).corr = .armed (correlation 1 none) ∧ (correlation 1 none).pollsLeft = 1 ∧
    1 < (correlation 2 none).pollsLeft ∧ (∀ c', (fresh [.strobe]).corr ≠ .armed c') :=
  ⟨rfl, armedState_table _ _ _, armedState_table _ _ _, armedState_table _ _ _, rfl, rfl, rfl, by decide, fun _ h => nomatch h⟩

theorem test_witness_DeadlineCountsStrobes :
    (armedState (List.replicate 99 .strobe ++ []) 100 none).corr = .armed (correlation 100 none) ∧
    (correlation 100 none).captured = none ∧
    (armedState (List.replicate 99 .strobe ++ []) 100 none).agenda = List.replicate 99 .strobe ++ [] ∧
    99 < (correlation 100 none).pollsLeft ∧ 100 = (correlation 100 none).pollsLeft ∧ 1 ≤ 100 := ⟨rfl, rfl, rfl, by decide, rfl, by decide⟩

theorem test_witness_ArmThenResolveRestoresTable :
    let s : State := { fresh [] with subs := [(ack207, [syncEntry 9])] }
    TableInv s ∧ (∀ c'', s.corr ≠ .armed c'') ∧ (correlation 100 none).gen = s.armGen ∧
    (correlation 100 none).identifier = (correlation 7 (some 1)).identifier := by
  refine ⟨⟨by decide, fun k l h => ?_⟩, fun _ h => (nomatch h), by decide, rfl⟩
  simp only [List.mem_cons, Prod.mk.injEq, List.not_mem_nil, or_false] at h
  obtain ⟨rfl, rfl⟩ := h
  refine ⟨by decide, by decide, fun e he => ?_⟩
  simp only [List.mem_cons, List.not_mem_nil, or_false] at he
  subst he
  trivial

/-! ### Witnesses: reset, the invariants and the whole machine -/

theorem outstandingState_since (moves : List Move) : OutstandingSince pastLog (outstandingState moves) := by
  refine ⟨⟨pastLog, rfl⟩, fun _ => Nat.one_lt_two, fun _ => Nat.one_lt_two, fun _ _ => Nat.one_lt_two, fun lid h => ?_⟩
  obtain rfl : lid = 1 := by simpa [outstandingState, AwaitsListener] using h
  exact Nat.one_lt_two

/-- A reset; a step since one; and a late completion of each kind, each at the last number issued before the reset. -/
theorem test_witness_ResetFromAnyState :
    (armedState [.assertReset] 9 none).agenda = [.assertReset] ∧
    (OutstandingSince pastLog (outstandingState [.dispatch]) ∧ ∃ t, step (outstandingState [.dispatch]) = .next t) ∧
    (∀ m, OutstandingSince pastLog (outstandingState [m]) ∧ (outstandingState [m]).agenda = [m]) ∧
    1 ≤ opensIssued pastLog ∧ 1 ≤ readsIssued pastLog ∧ 1 ≤ writesIssued pastLog ∧ 1 ≤ deliveriesTo 1 pastLog :=
  ⟨rfl, ⟨outstandingState_since _, _, rfl⟩, fun _ => ⟨outstandingState_since _, rfl⟩, by decide, by decide, by decide, by decide⟩

/-- A state in which every part of the machine is busy: STOP waits for the loop, a stale ACK is about to reach the internal listener,
a frame waits behind it, the correlation is armed, and both buffers hold a frame. -/
def busyState : State :=
  { armedState [.dispatch] 42 none with
    cmdState := .exec [0x04, 1], stopReq := true, rdState := .dispatching, batch := [f12Record]
    rxBuf := Memory.writeBytes [] 0 f1, rxLen := 25, txBuf := Memory.writeBytes [] 0 f16
    dispState := .sync f3Record [syncEntry 9, internalEntry 0] 1 false }

theorem busyState_buffers : BufferInv busyState := by
  refine ⟨by decide, by decide, fun a h => ?_, fun a h => ?_, fun a h => ?_, by decide, by decide⟩
  · have h : 500 ≤ a := h
    show Memory.read (Memory.writeBytes [] 0 f1) a = none
    have : ∀ m : Memory, (∀ c ∈ m, c.1 < 500) → Memory.read m a = none := by
      intro m hm
      induction m with
      | nil => rfl
      | cons c m ih =>
        have hc := hm c (by simp)
        show (if id a = id c.1 then some c.2 else Memory.read m a) = none
        rw [if_neg (show ¬ id a = id c.1 by simp only [id]; omega)]
        exact ih fun x hx => hm x (by simp [hx])
    exact this _ (by decide)
  · have h : 25 ≤ a := h
    show Memory.read (Memory.writeBytes [] 0 f16) a = none
    have : ∀ m : Memory, (∀ c ∈ m, c.1 < 25) → Memory.read m a = none := by
      intro m hm
      induction m with
      | nil => rfl
      | cons c m ih =>
        have hc := hm c (by simp)
        show (if id a = id c.1 then some c.2 else Memory.read m a) = none
        rw [if_neg (show ¬ id a = id c.1 by simp only [id]; omega)]
        exact ih fun x hx => hm x (by simp [hx])
    exact this _ (by decide)
  · have : ∀ x < 25, Memory.read busyState.rxBuf x ≠ none := by decide
    exact this a h

/-- F12 and F3 are valid frames; F8, with the length byte 9, is one of length 8 under CLAMP. -/
theorem f12_valid : FrameValid defaultConfig f12Record := ⟨by unfold FrameOk; decide, 1, by decide, by decide +kernel⟩
theorem f3_valid : FrameValid defaultConfig f3Record := ⟨by unfold FrameOk; decide, 0, by decide, by decide +kernel⟩
theorem test_clamped_valid :
    FrameValid { defaultConfig with dlcPolicy := .clamp } { f1Record with checksum := 0x829FF429 } :=
  ⟨by unfold FrameOk; decide, 9, by decide, by decide +kernel⟩

/-- The dispatch engine in both of its waits, for listener 1 and delivered to. -/
theorem test_witness_DispatchInv :
    DispatchInv (outstandingState []) ∧
    DispatchInv { outstandingState [] with dispState := .sync f1Record [asyncEntry 2, syncEntry 1] 0 true } := by
  refine ⟨⟨by decide, fun h hh => ?_⟩, 1, 1, rfl, by decide⟩
  obtain rfl : h = .ext 1 := by simpa using hh
  decide

/-- Every invariant holds in it, and it has a step: the witness of the six StepKeeps statements. -/
theorem test_witness_StepKeeps : Inv busyState ∧ ∃ t, step busyState = .next t := by
  refine ⟨⟨armedState_table [.dispatch] 42 none, busyState_buffers, ?_, ?_, ?_, trivial, ?_⟩, _, rfl⟩
  · constructor
    · intro f hf
      simp only [busyState, List.mem_cons, List.not_mem_nil, or_false] at hf
      subst hf
      exact f12_valid
    · intro f hf
      obtain rfl := Option.some.inj hf
      exact f3_valid
  · exact ⟨.stop 1, rfl, rfl, fun _ => rfl, fun _ h => nomatch h⟩
  · exact ⟨fun h => (nomatch h), fun h => absurd rfl h⟩
  · intro c hc
    obtain rfl := CorrState.armed.inj hc
    decide

theorem test_witness_InstructionFrame :
    (∃ t, exec (.send 1 1 0 0x207 8 8 (zeros 8)) (connectedState []) = .next t) ∧
    (∃ t, exec (.subscribe 7 0x207 0xFFFF 1 0) State.reset = .next t) ∧
    ∃ t, exec (.ackFrame 0x1234 1 0 0x207 0 (zeros 8) 0x90C07EEE) State.reset = .next t := by
  refine ⟨?_, ⟨_, rfl⟩, ⟨_, rfl⟩⟩
  cases h : exec (.send 1 1 0 0x207 8 8 (zeros 8)) (connectedState []) with
  | next t => exact ⟨t, rfl⟩
  | fault e =>
    have := test_send.1
    rw [h] at this
    cases this
  | refused e =>
    have := test_send.1
    rw [h] at this
    cases this

theorem test_witness_ConnectedWrittenOnlyByLifecycle :
    (∃ t, step { executing [.usbOpened 0 true] [0x01, 7] with connected := false } = .next t ∧ t.connected = true) ∧
    (∃ t, step (executing [.resume] [0x04, 7]) = .next t ∧ (executing [.resume] [0x04, 7]).connected = true ∧ t.connected = false) ∧
    ∃ t, step (connectedState [.descriptor [0x02, 7]]) = .next t ∧ t.connected = false :=
  ⟨⟨_, rfl, rfl⟩, ⟨_, rfl, rfl, rfl⟩, ⟨_, rfl, rfl⟩⟩

end Sys2Proof.Tests
end

section
/-!
Scope (00_scope.md): the machine never stops (R406) and no step changes the configuration (R10). Both halves are read from what
Laws/Exec.lean and Laws/Step.lean list: every instruction and every completion ends in a next state, and the configuration is the
same in each of their shapes.
-/

namespace Sys2Proof.Machine

open Sys2Proof.Safety

/-! ### Every move ends in a next state -/

theorem goes_next (s : State) : Goes (.next s) := ⟨s, rfl⟩

/-- No instruction stops: the one read of a buffer a command makes is of the frame it has just stored (R274). -/
theorem exec_goes (i : Instr) (s : State) : Goes (exec i s) :=
  (exec_shape i s).imp fun _ h => h.1

theorem acceptDescriptor_goes (d : List Byte) (s : State) : Goes (acceptDescriptor d s) := by
  unfold acceptDescriptor
  split
  · exact goes_next s
  · split
    · exact exec_goes _ _
    · exact goes_next _

/-- The deframe step reads only bytes of the transfer it has just stored (R266). -/
theorem takeTransfer_goes (T : List Byte) (s : State) : Goes (takeTransfer T s) := by
  unfold takeTransfer
  split
  · exact goes_next _
  · split
    · exact ⟨_, deframe_eq T s⟩
    · exact goes_next s

theorem ofLatest_goes (n latest : Nat) {f : State → Result} (hf : ∀ s, Goes (f s)) (s : State) :
    Goes (ofLatest n latest f s) := by
  unfold ofLatest
  split
  · exact hf s
  · exact goes_next s

theorem perform_goes (m : Move) (s : State) : Goes (perform m s) := by
  cases m with
  | descriptor d => exact acceptDescriptor_goes d s
  | transfer n T => exact ofLatest_goes n _ (takeTransfer_goes T) s
  | usbOpened n ok => exact ofLatest_goes n _ (fun _ => goes_next _) s
  | readTimeout n => exact ofLatest_goes n _ (fun _ => goes_next _) s
  | readError n => exact ofLatest_goes n _ (fun _ => goes_next _) s
  | writeDone n w => exact ofLatest_goes n _ (fun _ => goes_next _) s
  | listenerDone lid n => exact ofLatest_goes n _ (fun _ => goes_next _) s
  | strobe | devChange _ | assertReset | issueRead | stopLoop | endBatch | dispatch | resume => exact goes_next _

/-! ### No move changes the configuration -/

@[simp] theorem receiveChunk_cfg (B : List Byte) (s : State) : (receiveChunk B s).cfg = s.cfg := by
  rw [receiveChunk_eq]

@[simp] theorem finishConnect_cfg (tag : Byte) (ok : Bool) (s : State) : (finishConnect tag ok s).cfg = s.cfg := by
  cases ok <;> rfl

@[simp] theorem capture_cfg (g : Word) (f : DecodedFrame) (s : State) : (capture g f s).cfg = s.cfg := by
  unfold capture
  split
  · split <;> rfl
  · rfl
  · rfl

theorem ExecShape.cfg_eq {s t : State} {i : Instr} (h : ExecShape s i t) : t.cfg = s.cfg := by
  cases h with
  | receives => exact receiveChunk_cfg _ s
  | _ => rfl

theorem MoveShape.cfg_eq {s t : State} {m : Move} (h : MoveShape s m t) : t.cfg = s.cfg := by
  cases h with
  | executes _ _ _ _ _ hx => exact hx.cfg_eq
  | connected ok _ tag => exact finishConnect_cfg tag ok s
  | captures f _ _ _ g => exact capture_cfg g f _
  | _ => rfl

/-- Settles O8: a step is a move, every move ends in a next state, and every state a move can leave has the same configuration. -/
theorem stepAlwaysGoes : Obligations.StepAlwaysGoes := by
  intro s
  refine ⟨perform_goes _ _, fun t h => ?_⟩
  obtain ⟨_, _, _, -, hm⟩ := step_shape h
  exact hm.cfg_eq

end Sys2Proof.Machine
end

section
/-!
Texts (00_scope.md R16, 40_codec.md R226-R228). A digit of the model is the character of `hexAlphabet` at the digit's value; the
rest is about lists of digits, and about where the spelling of byte `i` stands in a text.
-/

namespace Sys2Proof.Machine

open Sys2Proof.Claims

/-! ### Digits -/

theorem hexDigit_eq_alphabet : ∀ d < 16, hexDigit d = byteAt hexAlphabet d := by decide

/-- A character of the alphabet stands for one digit only. -/
theorem idxOf_alphabet : ∀ d < 16, hexAlphabet.idxOf (byteAt hexAlphabet d) = d := by decide

theorem hex2_eq_alphabet (b : Byte) :
    hex2 b = [byteAt hexAlphabet (b.toNat / 16), byteAt hexAlphabet (b.toNat % 16)] := by
  have hb := b.isLt
  rw [hex2, hexDigit_eq_alphabet _ (by omega), hexDigit_eq_alphabet _ (by omega)]

@[simp] theorem hex2_length (b : Byte) : (hex2 b).length = 2 := rfl

/-! ### `render_hex` (R226) -/

/-- The number a list of hexadecimal digits spells, most significant first. -/
def digitsValue (ds : List Nat) : Nat := ds.foldl (fun a d => 16 * a + d) 0

theorem hexDigits_lt (n v : Nat) : ∀ d ∈ hexDigits n v, d < 16 := by
  induction n generalizing v with
  | zero => simp [hexDigits]
  | succ n ih =>
    intro d hd
    rcases List.mem_append.mp hd with hd | hd
    · exact ih (v / 16) d hd
    · rw [List.mem_singleton.mp hd]
      exact Nat.mod_lt v (by decide)

theorem digitsValue_hexDigits {n v : Nat} (h : v < 16 ^ n) : digitsValue (hexDigits n v) = v := by
  induction n generalizing v with
  | zero => exact (Nat.lt_one_iff.mp h).symm
  | succ n ih =>
    have hq : digitsValue (hexDigits n (v / 16)) = v / 16 := ih (Nat.div_lt_of_lt_mul (by rwa [← Nat.pow_succ']))
    calc digitsValue (hexDigits (n + 1) v) = 16 * digitsValue (hexDigits n (v / 16)) + v % 16 := by
          simp [digitsValue, hexDigits]
      _ = v := by rw [hq, Nat.div_add_mod]

theorem dropLeadingZeros_suffix (ds : List Nat) : dropLeadingZeros ds <:+ ds := by
  fun_induction dropLeadingZeros ds with
  | case3 d ds ih => exact ih.trans (List.suffix_cons 0 (d :: ds))
  | _ => exact List.suffix_rfl

/-- Leading zeros add nothing to the value. -/
theorem digitsValue_dropLeadingZeros (ds : List Nat) : digitsValue (dropLeadingZeros ds) = digitsValue ds := by
  fun_induction dropLeadingZeros ds with
  | case3 d ds ih => exact ih
  | _ => rfl

theorem dropLeadingZeros_ne_nil {ds : List Nat} (h : ds ≠ []) : dropLeadingZeros ds ≠ [] := by
  fun_induction dropLeadingZeros ds with
  | case1 => exact h
  | case3 d ds ih => exact ih (List.cons_ne_nil d ds)
  | _ => exact List.cons_ne_nil _ _

theorem dropLeadingZeros_of_head_zero {ds : List Nat} (h : (dropLeadingZeros ds).head? = some 0) :
    dropLeadingZeros ds = [0] := by
  fun_induction dropLeadingZeros ds with
  | case1 => cases h
  | case2 d => rw [Option.some.inj h]
  | case3 d ds ih => exact ih h
  | case4 e d ds => cases h

/-- The digits `render_hex` spells. -/
def renderedDigits (v : Nat) : List Nat := dropLeadingZeros (hexDigits 8 v)

theorem renderedDigits_lt (v : Nat) : ∀ d ∈ renderedDigits v, d < 16 := fun d hd =>
  hexDigits_lt 8 v d ((dropLeadingZeros_suffix _).subset hd)

theorem digitsValue_renderedDigits (v : Word) : digitsValue (renderedDigits v.toNat) = v.toNat :=
  (digitsValue_dropLeadingZeros _).trans (digitsValue_hexDigits v.isLt)

theorem renderHex_eq (v : Nat) :
    renderHex v = [0x30, 0x78] ++ (renderedDigits v).map (byteAt hexAlphabet) := by
  have hd : hexU v = (renderedDigits v).map (byteAt hexAlphabet) :=
    List.map_congr_left fun d hd => hexDigit_eq_alphabet d (renderedDigits_lt v d hd)
  rw [renderHex, hd]
  rfl

/-- The digits can be read back from the text. -/
theorem renderedDigits_of_renderHex (v : Nat) : ((renderHex v).drop 2).map hexAlphabet.idxOf = renderedDigits v := by
  have hd : ((renderedDigits v).map (byteAt hexAlphabet)).map hexAlphabet.idxOf = (renderedDigits v).map id := by
    rw [List.map_map]
    exact List.map_congr_left fun d hd => idxOf_alphabet d (renderedDigits_lt v d hd)
  rw [renderHex_eq]
  exact hd.trans (List.map_id _)

theorem renderHex_injective {v w : Word} (h : renderHex v.toNat = renderHex w.toNat) : v = w := by
  have hd : renderedDigits v.toNat = renderedDigits w.toNat := by
    rw [← renderedDigits_of_renderHex, h, renderedDigits_of_renderHex]
  apply BitVec.eq_of_toNat_eq
  rw [← digitsValue_renderedDigits v, hd, digitsValue_renderedDigits w]

/-- Settles O18: the digits are the last eight of the value without leading zeros, and the text gives them back. -/
theorem renderHexCanonical : Obligations.RenderHexCanonical :=
  ⟨fun v => ⟨renderedDigits v.toNat, renderHex_eq _, renderedDigits_lt _, digitsValue_renderedDigits v,
    dropLeadingZeros_ne_nil (by simp [hexDigits]), dropLeadingZeros_of_head_zero⟩, fun _ _ => renderHex_injective⟩

/-! ### Offsets in a text -/

theorem slice_append_add (A B : List Byte) (a b : Nat) : slice (A ++ B) (A.length + a) (A.length + b) = slice B a b := by
  rw [slice, slice, List.drop_length_add_append, Nat.add_sub_add_left]

theorem byteAt_append_add (A B : List Byte) (i : Nat) : byteAt (A ++ B) (A.length + i) = byteAt B i := by
  simp [byteAt, List.getElem?_append_right]

/-! ### `render_payload` and `render_checksum` (R227, R228) -/

theorem renderPayload_length (P : List Byte) : (renderPayload P).length = 3 * P.length - 1 := by
  fun_induction renderPayload P with
  | case1 => rfl
  | case2 b => rfl
  | case3 b b' bs ih =>
    simp only [List.length_append, hex2_length, List.length_cons, List.length_nil, ih]
    omega

theorem slice_renderPayload {P : List Byte} {i : Nat} (hi : i < P.length) :
    slice (renderPayload P) (3 * i) (3 * i + 2) = hex2 (byteAt P i) := by
  fun_induction renderPayload P generalizing i with
  | case1 => cases hi
  | case2 b =>
    obtain rfl : i = 0 := by simpa using hi
    rfl
  | case3 b b' bs ih =>
    cases i with
    | zero => rfl
    | succ i =>
      have hoff : 3 * (i + 1) = (hex2 b ++ [0x20#8]).length + 3 * i := Nat.add_comm (3 * i) 3
      rw [hoff, Nat.add_assoc, slice_append_add]
      exact ih (Nat.lt_of_succ_lt_succ hi)

theorem byteAt_renderPayload_space {P : List Byte} {i : Nat} (hi : i + 1 < P.length) :
    byteAt (renderPayload P) (3 * i + 2) = 0x20 := by
  fun_induction renderPayload P generalizing i with
  | case1 => cases hi
  | case2 b => simp at hi
  | case3 b b' bs ih =>
    cases i with
    | zero => rfl
    | succ i =>
      have hoff : 3 * (i + 1) = (hex2 b ++ [0x20#8]).length + 3 * i := Nat.add_comm (3 * i) 3
      rw [hoff, Nat.add_assoc, byteAt_append_add]
      exact ih (Nat.lt_of_succ_lt_succ hi)

theorem renderChecksum_cons (b : Byte) (C : List Byte) : renderChecksum (b :: C) = hex2 b ++ renderChecksum C := rfl

theorem renderChecksum_length (C : List Byte) : (renderChecksum C).length = 2 * C.length := by
  simp [renderChecksum, List.length_flatMap, Nat.mul_comm]

theorem slice_renderChecksum {C : List Byte} {i : Nat} (hi : i < C.length) :
    slice (renderChecksum C) (2 * i) (2 * i + 2) = hex2 (byteAt C i) := by
  induction C generalizing i with
  | nil => cases hi
  | cons b C ih =>
    cases i with
    | zero => rfl
    | succ i =>
      have hoff : 2 * (i + 1) = (hex2 b).length + 2 * i := Nat.add_comm (2 * i) 2
      rw [renderChecksum_cons, hoff, Nat.add_assoc, slice_append_add]
      exact ih (Nat.lt_of_succ_lt_succ hi)

/-- Settles O19: the spelling of byte `i` begins at offset 3i or 2i, and is the byte's two characters of the alphabet. -/
theorem renderedBytes : Obligations.RenderedBytes := by
  intro P
  refine ⟨renderPayload_length P, renderChecksum_length P, fun i hi => ?_⟩
  rw [← hex2_eq_alphabet]
  exact ⟨slice_renderPayload hi, byteAt_renderPayload_space, slice_renderChecksum hi⟩

end Sys2Proof.Machine
end

section
/-!
The step as a whole (10_state.md R42, R43, R54): a descriptor runs its instruction, what an instruction leaves alone, and which moves
write `connected` and the snapshot of a dispatch. All but the first are read from the shapes of Laws/Exec.lean and Laws/Step.lean.
-/

namespace Sys2Proof.Machine

open Sys2Proof.Safety

/-- Settles O6: the move on the agenda is the descriptor, and `acceptDescriptor` looks at `cmd_state` first. -/
theorem stepRunsDescriptor : Obligations.StepRunsDescriptor := by
  intro s d rest h
  rw [step_of_agenda h]
  constructor
  · intro i hc hd
    simp only [perform, acceptDescriptor, hc, hd]
  · intro d' hc
    simp only [perform, acceptDescriptor, hc]

/-! ### Operations that write one or two elements -/

/-- A capture writes `corr` alone (R344). -/
theorem capture_eq (g : Word) (f : DecodedFrame) (s : State) : capture g f s = { s with corr := (capture g f s).corr } := by
  unfold capture
  split
  · split <;> rfl
  · rfl
  · rfl

/-- A capture stores the tick in an armed correlation, or does nothing (R344). -/
theorem capture_corr_cases (g : Word) (f : DecodedFrame) (s : State) :
    (capture g f s).corr = s.corr ∨
    ∃ c, s.corr = .armed c ∧ (capture g f s).corr = .armed { c with captured := some f.tick } := by
  unfold capture
  split
  · rename_i c hc
    split
    · exact .inr ⟨c, hc, rfl⟩
    · exact .inl rfl
  · exact .inl rfl
  · exact .inl rfl

@[simp] theorem capture_dispState (g : Word) (f : DecodedFrame) (s : State) : (capture g f s).dispState = s.dispState := by
  rw [capture_eq]

@[simp] theorem capture_connected (g : Word) (f : DecodedFrame) (s : State) : (capture g f s).connected = s.connected := by
  rw [capture_eq]

@[simp] theorem capture_subs (g : Word) (f : DecodedFrame) (s : State) : (capture g f s).subs = s.subs := by
  rw [capture_eq]

@[simp] theorem capture_out (g : Word) (f : DecodedFrame) (s : State) : (capture g f s).out = s.out := by
  rw [capture_eq]

/-- The answer of `usb_open` sets `connected` or leaves it (R260). -/
theorem finishConnect_connected (tag : Byte) (ok : Bool) (s : State) :
    (finishConnect tag ok s).connected = (ok || s.connected) := by
  cases ok <;> rfl

@[simp] theorem finishConnect_dispState (tag : Byte) (ok : Bool) (s : State) :
    (finishConnect tag ok s).dispState = s.dispState := by
  cases ok <;> rfl

@[simp] theorem receiveChunk_dispState (B : List Byte) (s : State) : (receiveChunk B s).dispState = s.dispState := by
  rw [receiveChunk_eq]

@[simp] theorem receiveChunk_connected (B : List Byte) (s : State) : (receiveChunk B s).connected = s.connected := by
  rw [receiveChunk_eq]

/-- MemWrite at offset 0 leaves every offset past its bytes alone (20_memory.md R84). -/
theorem Memory.read_writeBytes_after {a : Nat} {B : List Byte} (h : B.length ≤ a) (m : Memory) :
    Memory.read (Memory.writeBytes m 0 B) a = Memory.read m a := by
  simp [Memory.read_writeBytes, h]

/-! ### What an instruction leaves alone (R42) -/

theorem ExecShape.dispState_eq {s t : State} {i : Instr} (h : ExecShape s i t) : t.dispState = s.dispState := by
  cases h with
  | receives => exact receiveChunk_dispState _ s
  | _ => rfl

/-- The receive buffer, the arming number, the input and the schedule are written by no instruction. -/
theorem ExecShape.frame {s t : State} {i : Instr} (h : ExecShape s i t) :
    t.rxLen = s.rxLen ∧ t.rxBuf = s.rxBuf ∧ t.armGen = s.armGen ∧ t.devPresent = s.devPresent ∧ t.agenda = s.agenda ∧
      t.clock = s.clock := by
  cases h with
  | receives =>
    rw [receiveChunk_eq]
    exact ⟨rfl, rfl, rfl, rfl, rfl, rfl⟩
  | _ => exact ⟨rfl, rfl, rfl, rfl, rfl, rfl⟩

/-- An instruction writes `tx_buf` by storing one frame, or not at all (R49, R210). -/
theorem ExecShape.txBuf_cases {s t : State} {i : Instr} (h : ExecShape s i t) :
    t.txBuf = s.txBuf ∨ ∃ F : List Byte, F.length = 25 ∧ t.txBuf = Memory.writeBytes s.txBuf 0 F := by
  cases h with
  | stores _ _ _ _ _ F hF => exact .inr ⟨F, hF, rfl⟩
  | sends _ _ _ _ _ _ _ F hF => exact .inr ⟨F, hF, rfl⟩
  | sendsAcked _ _ _ _ _ _ _ F hF => exact .inr ⟨F, hF, rfl⟩
  | receives =>
    rw [receiveChunk_eq]
    exact .inl rfl
  | _ => exact .inl rfl

theorem ExecShape.txBuf_after {s t : State} {i : Instr} (h : ExecShape s i t) {a : Nat} (ha : 25 ≤ a) :
    Memory.read t.txBuf a = Memory.read s.txBuf a := by
  obtain heq | ⟨F, hF, heq⟩ := h.txBuf_cases
  · rw [heq]
  · rw [heq, Memory.read_writeBytes_after (hF ▸ ha)]

/-- Settles O59: what no instruction writes is the same in every shape; what each family leaves alone is read from the shapes that
family has. -/
theorem instructionFrame : Obligations.InstructionFrame := by
  intro i s t h
  have hx := shape_of_exec h
  obtain ⟨hlen, hrx, hgen, hdev, hag, hck⟩ := hx.frame
  refine ⟨hlen, fun a => by rw [hrx], hx.dispState_eq, hgen, hx.cfg_eq, hdev, hag, hck, fun a ha => hx.txBuf_after ha, ?_⟩
  cases hx with
  | responds _ o g st d hw hi =>
    cases i with
    | connect tag => exact absurd rfl (hi tag).1
    | disconnect tag => exact absurd rfl (hi tag).2.1
    | stop tag => exact absurd rfl (hi tag).2.2
    | dataFrame | ackFrame => cases hw
    | start | status | decode | checksum => rfl
    | encode | send | sendAcked | subscribe | unsubscribe => simp
  | stores _ o g st d F hF hi =>
    obtain ⟨_, _, _, _, _, _, _, rfl⟩ | ⟨_, _, _, _, _, _, _, rfl⟩ | ⟨_, _, _, _, _, _, _, rfl⟩ := hi
    all_goals simp
  | sends | sendsAcked | registers | unregisters => simp
  | connects | starts => rfl
  | asksStop _ _ hi | disconnects _ _ _ _ hi => obtain ⟨_, rfl⟩ | ⟨_, rfl⟩ := hi <;> rfl
  | receives _ hw =>
    rw [receiveChunk_eq]
    cases i with
    | dataFrame | ackFrame => rfl
    | _ => cases hw

/-! ### The snapshot of a dispatch (R54) -/

theorem SubTable.find_of_listeners_ne_nil {t : SubTable} {k : Key} (h : SubTable.listeners t k ≠ []) :
    SubTable.find t k = some (SubTable.listeners t k) := by
  unfold SubTable.listeners at h ⊢
  cases hf : SubTable.find t k with
  | none => simp [hf] at h
  | some l => rfl

/-- The asynchronous wait, or its end, is no synchronous phase (R314, R315). -/
theorem awaitAll_dispState_ne_sync {f f' : DecodedFrame} {w : List Handle} {s : State} {l : List Entry} {k : Nat} {b : Bool} :
    (awaitAll f w s).dispState ≠ .sync f' l k b := by
  rw [awaitAll_dispState]
  split <;> nofun

/-- A synchronous phase is entered by a lookup, and otherwise keeps its frame and its list. -/
theorem MoveShape.snapshot_cases {s t : State} {m : Move} (h : MoveShape s m t) {f : DecodedFrame} {l : List Entry} {k : Nat}
    {b : Bool} (ht : t.dispState = .sync f l k b) :
    (s.dispState = .idle ∧ s.batch = f :: t.batch ∧ SubTable.find s.subs (frameKey f) = some l) ∨
    ∃ k' b', s.dispState = .sync f l k' b' := by
  cases h with
  | executes _ _ _ _ _ hx => exact .inr ⟨k, b, hx.dispState_eq.symm.trans ht⟩
  | connected => exact .inr ⟨k, b, (finishConnect_dispState ..).symm.trans ht⟩
  | syncDone _ _ _ _ _ hd | delivers _ _ _ _ _ hd =>
    cases ht
    exact .inr ⟨_, _, hd⟩
  | captures _ _ _ _ _ hd =>
    rw [capture_dispState] at ht
    cases ht
    exact .inr ⟨_, _, hd⟩
  | starts _ _ _ _ hd hb hl =>
    cases ht
    exact .inl ⟨hd, hb, SubTable.find_of_listeners_ne_nil hl⟩
  | asyncDone | deliversAll => exact absurd ht (awaitAll_dispState_ne_sync (s := s))
  | resets | discards => cases ht
  | _ => exact .inr ⟨k, b, ht⟩

/-- Settles O42: only the lookup and the synchronous steps leave a synchronous phase behind them, and the latter keep its frame and
its list. -/
theorem snapshotFixedAtLookup : Obligations.SnapshotFixedAtLookup := by
  intro s t f l k b h ht
  obtain ⟨_, _, _, -, hm⟩ := step_shape h
  exact hm.snapshot_cases ht

/-! ### The writers of `connected` (R44) -/

/-- The one way an instruction changes `connected` is STOP or DISCONNECT with no loop running (R261, R263). -/
theorem ExecShape.connected_cases {s t : State} {i : Instr} (h : ExecShape s i t) :
    t.connected = s.connected ∨
    (t.connected = false ∧ s.running = false ∧ t.cmdState = .idle ∧ ∃ tag, i = .stop tag ∨ i = .disconnect tag) := by
  cases h with
  | disconnects _ _ _ hr hi => exact .inr ⟨rfl, hr, rfl, exists_or.mpr hi⟩
  | receives => exact .inl (receiveChunk_connected _ s)
  | _ => exact .inl rfl

/-- A move leaves `connected` alone, sets it as the OK answer to a CONNECT, or clears it as a reset or the end of STOP or
DISCONNECT. -/
theorem MoveShape.connected_cases {s t : State} {m : Move} (h : MoveShape s m t) :
    t.connected = s.connected ∨
    (t.connected = true ∧ s.devPresent = true ∧ m = .usbOpened (opensIssued s.out) true ∧
      ∃ d tag, s.cmdState = .exec d ∧ decodeDescriptor d = .ok (.connect tag)) ∨
    (t.connected = false ∧
      (m = .assertReset ∨
      ∃ d tag, (s.cmdState = .exec d ∨ m = .descriptor d) ∧
        (decodeDescriptor d = .ok (.stop tag) ∨ decodeDescriptor d = .ok (.disconnect tag)) ∧ s.running = false ∧
        t.cmdState = .idle)) := by
  cases h with
  | executes d i _ _ hd hx =>
    obtain heq | ⟨ht, hr, hc, tag, hi⟩ := hx.connected_cases
    · exact .inl heq
    · refine .inr (.inr ⟨ht, .inr ⟨d, tag, .inr rfl, ?_, hr, hc⟩⟩)
      obtain rfl | rfl := hi
      · exact .inl hd
      · exact .inr hd
  | connected ok d tag hc hd hp =>
    rw [finishConnect_connected]
    cases ok with
    | false => exact .inl rfl
    | true => exact .inr (.inl ⟨rfl, hp rfl, rfl, d, tag, hc, hd⟩)
  | captures => exact .inl (capture_connected ..)
  | resets => exact .inr (.inr ⟨rfl, .inl rfl⟩)
  | disconnects d opc tag hc hd hr => exact .inr (.inr ⟨rfl, .inr ⟨d, tag, .inl hc, hd, hr, rfl⟩⟩)
  | _ => exact .inl rfl

/-- Settles O60: one move sets `connected`, and only a reset and the end of STOP or DISCONNECT clear it. -/
theorem connectedWrittenOnlyByLifecycle : Obligations.ConnectedWrittenOnlyByLifecycle := by
  intro s t h
  obtain ⟨m, a, c, rfl, hm⟩ := step_shape h
  obtain heq | ⟨ht, hrise⟩ | ⟨ht, hfall⟩ := hm.connected_cases
  · exact ⟨fun h0 h1 => absurd (heq.symm.trans h1) (by simp [h0]), fun h1 h0 => absurd (heq.symm.trans h0) (by simp [h1])⟩
  · exact ⟨fun _ _ => hrise, fun _ h0 => absurd h0 (by simp [ht])⟩
  · exact ⟨fun _ h1 => absurd h1 (by simp [ht]), fun _ _ => hfall⟩

end Sys2Proof.Machine
end

section
/-!
Every step keeps the subscription table well-formed (10_state.md R52) and an armed correlation's entry in it (R55, 43_correlator.md
R353). Only the two updates of the table, the resolutions, the arming and a reset touch what these invariants speak of; the two updates
are treated once, for any property of a key and an entry.
-/

namespace Sys2Proof.Machine

open Sys2Proof.Safety

/-! ### The two updates of the table -/

theorem SubTable.listeners_register (t : SubTable) (k k' : Key) (e : Entry) :
    SubTable.listeners (SubTable.register t k e) k' =
      if k' = k then SubTable.listeners t k ++ [e] else SubTable.listeners t k' := by
  rw [SubTable.listeners, SubTable.find_register]
  split <;> rfl

theorem SubTable.listeners_unregister {t : SubTable} (ht : tableOrdered Key.code t = true) (k k' : Key) (h : Handle) :
    SubTable.listeners (SubTable.unregister t k h) k' =
      if k' = k then (SubTable.listeners t k).filter (fun e => decide (e.lid ≠ h)) else SubTable.listeners t k' := by
  rw [SubTable.listeners, SubTable.find_unregister ht]
  split
  · rw [SubTable.listeners]
    cases SubTable.find t k with
    | none => rfl
    | some l =>
      rw [Option.bind_some, Option.getD_some]
      split <;> exact Eq.symm ‹_›
  · rfl

/-- Registering removes no entry. -/
theorem SubTable.mem_listeners_register {t : SubTable} {k k' : Key} {e e' : Entry} (h : e' ∈ SubTable.listeners t k') :
    e' ∈ SubTable.listeners (SubTable.register t k e) k' := by
  rw [SubTable.listeners_register]
  split
  · rename_i hk
    exact List.mem_append_left _ (hk ▸ h)
  · exact h

/-- Unregistering removes no entry of another handle. -/
theorem SubTable.mem_listeners_unregister {t : SubTable} (ht : tableOrdered Key.code t = true) {k k' : Key} {h : Handle}
    {e : Entry} (hm : e ∈ SubTable.listeners t k') (hne : e.lid ≠ h) :
    e ∈ SubTable.listeners (SubTable.unregister t k h) k' := by
  rw [SubTable.listeners_unregister ht]
  split
  · rename_i hk
    exact List.mem_filter.mpr ⟨hk ▸ hm, decide_eq_true hne⟩
  · exact hm

/-! ### Well-formed tables -/

/-- A list the table may hold under a key: not empty, distinct handles, entries that are allowed there (R52). -/
def ListWf (P : Entry → Prop) (l : List Entry) : Prop := l ≠ [] ∧ (l.map Entry.lid).Nodup ∧ ∀ e ∈ l, P e

/-- A table in canonical order with such lists, `P` saying which entries are allowed under which key. -/
def TableWf (P : Key → Entry → Prop) (t : SubTable) : Prop :=
  tableOrdered Key.code t = true ∧ ∀ k l, SubTable.find t k = some l → ListWf (P k) l

theorem tableInv_iff (s : State) : TableInv s ↔ TableWf (InternalEntryOk s) s.subs :=
  and_congr_right fun hord => forall₂_congr fun k l => by rw [SubTable.mem_iff_find hord]; rfl

/-- Every entry under a key of a well-formed table is allowed there. -/
theorem TableWf.listeners {P : Key → Entry → Prop} {t : SubTable} (h : TableWf P t) (k : Key) :
    ((SubTable.listeners t k).map Entry.lid).Nodup ∧ ∀ e ∈ SubTable.listeners t k, P k e := by
  unfold SubTable.listeners
  cases hf : SubTable.find t k with
  | none => exact ⟨List.nodup_nil, nofun⟩
  | some l => exact (h.2 k l hf).2

theorem TableWf.mono {P Q : Key → Entry → Prop} {t : SubTable} (h : TableWf P t) (hPQ : ∀ k e, P k e → Q k e) : TableWf Q t := by
  refine ⟨h.1, fun k l hl => ?_⟩
  obtain ⟨hne, hnd, hP⟩ := h.2 k l hl
  exact ⟨hne, hnd, fun e he => hPQ k e (hP e he)⟩

/-- Registering an allowed entry under a new handle keeps a table well-formed (R300, R343). -/
theorem TableWf.register {P : Key → Entry → Prop} {t : SubTable} (h : TableWf P t) {k : Key} {e : Entry}
    (hnew : ∀ x ∈ SubTable.listeners t k, x.lid ≠ e.lid) (he : P k e) : TableWf P (SubTable.register t k e) := by
  refine ⟨SubTable.ordered_register h.1 k e, fun k' l hl => ?_⟩
  rw [SubTable.find_register] at hl
  split at hl
  · rename_i hk
    subst hk
    obtain rfl := Option.some.inj hl
    obtain ⟨hnd, hP⟩ := h.listeners k'
    refine ⟨by simp, ?_, fun x hx => ?_⟩
    · rw [List.map_append, List.nodup_append]
      refine ⟨hnd, by simp, fun a ha b hb => ?_⟩
      obtain ⟨x, hx, rfl⟩ := List.mem_map.mp ha
      obtain rfl : b = e.lid := by simpa using hb
      exact hnew x hx
    · obtain hx | hx := List.mem_append.mp hx
      · exact hP x hx
      · exact List.mem_singleton.mp hx ▸ he
  · exact h.2 k' l hl

/-- Unregistering a handle keeps a table well-formed, and leaves no entry of that handle under its key (R305, R306). -/
theorem TableWf.unregister {P : Key → Entry → Prop} {t : SubTable} (h : TableWf P t) (k : Key) (hd : Handle) :
    TableWf (fun k' e => P k' e ∧ (k' = k → e.lid ≠ hd)) (SubTable.unregister t k hd) := by
  refine ⟨SubTable.ordered_unregister h.1 k hd, fun k' l hl => ?_⟩
  rw [SubTable.find_unregister h.1] at hl
  split at hl
  · rename_i hk
    subst hk
    obtain ⟨l₀, hl₀, hl⟩ := Option.bind_eq_some_iff.mp hl
    obtain ⟨-, hnd, hP⟩ := h.2 k' l₀ hl₀
    split at hl
    · cases hl
    · rename_i e l' hf
      obtain rfl := Option.some.inj hl
      rw [← hf]
      refine ⟨hf ▸ List.cons_ne_nil e l', hnd.sublist (List.filter_sublist.map _), fun x hx => ?_⟩
      obtain ⟨hx, hxd⟩ := List.mem_filter.mp hx
      exact ⟨hP x hx, fun _ => of_decide_eq_true hxd⟩
  · rename_i hk
    obtain ⟨hne, hnd, hP⟩ := h.2 k' l hl
    exact ⟨hne, hnd, fun e he => ⟨hP e he, fun hc => absurd hc hk⟩⟩

/-! ### Internal entries (R52 I3) -/

theorem internalEntryOk_iff {s : State} {k : Key} {e : Entry} :
    InternalEntryOk s k e ↔
      ∀ g, e.lid = .int g → e.mode = .sync ∧ ∃ c, s.corr = .armed c ∧ c.gen = g ∧ k = ackKey c.identifier := by
  unfold InternalEntryOk
  split <;> simp [*]

/-- Every armed correlation of `s` is still armed in `t`, with its generation and identifier. -/
def StaysArmed (s t : State) : Prop :=
  ∀ c, s.corr = .armed c → ∃ c', t.corr = .armed c' ∧ c'.gen = c.gen ∧ c'.identifier = c.identifier

theorem staysArmed_of_corr_eq {s t : State} (h : t.corr = s.corr) : StaysArmed s t := fun c hc => ⟨c, h.trans hc, rfl, rfl⟩

theorem staysArmed_of_not_armed {s t : State} (h : ∀ c, s.corr ≠ .armed c) : StaysArmed s t := fun c hc => absurd hc (h c)

theorem staysArmed_capture (g : Word) (f : DecodedFrame) (s : State) : StaysArmed s (capture g f s) := by
  obtain h | ⟨c, hc, h⟩ := capture_corr_cases g f s
  · exact staysArmed_of_corr_eq h
  · intro c' hc'
    obtain rfl := CorrState.armed.inj (hc.symm.trans hc')
    exact ⟨_, h, rfl, rfl⟩

theorem internalEntryOk_of_staysArmed {s t : State} (h : StaysArmed s t) {k : Key} {e : Entry} (he : InternalEntryOk s k e) :
    InternalEntryOk t k e := by
  rw [internalEntryOk_iff] at he ⊢
  intro g hg
  obtain ⟨hm, c, hc, hcg, hk⟩ := he g hg
  obtain ⟨c', hc', hg', hi'⟩ := h c hc
  exact ⟨hm, c', hc', hg'.trans hcg, hi' ▸ hk⟩

/-- With nothing armed no entry is internal. -/
theorem internalEntryOk_not_int {s : State} (hs : ∀ c, s.corr ≠ .armed c) {k : Key} {e : Entry} (he : InternalEntryOk s k e)
    (g : Word) : e.lid ≠ .int g := fun hg =>
  have ⟨_, c, hc, _⟩ := internalEntryOk_iff.mp he g hg
  hs c hc

/-- While the table stays, so does its well-formedness if the armed correlation does. -/
theorem tableInv_of_staysArmed {s t : State} (h : TableInv s) (ha : StaysArmed s t) (ht : t.subs = s.subs) : TableInv t := by
  rw [tableInv_iff] at h ⊢
  rw [ht]
  exact h.mono fun _ _ => internalEntryOk_of_staysArmed ha

/-! ### The steps that write the table -/

theorem ExecShape.keeps_table {s t : State} {i : Instr} (h : ExecShape s i t) (hi : TableInv s) : TableInv t := by
  cases h with
  | sendsAcked _ _ _ _ _ _ _ _ _ hc => exact tableInv_of_staysArmed hi (staysArmed_of_not_armed (by simp [hc])) rfl
  | registers _ _ _ _ _ hd =>
    exact (tableInv_iff _).mpr (((tableInv_iff s).mp hi).register hd trivial)
  | unregisters =>
    exact (tableInv_iff _).mpr ((((tableInv_iff s).mp hi).unregister _ _).mono fun _ _ he => he.1)
  | receives =>
    rw [receiveChunk_eq]
    exact hi
  | _ => exact hi

/-- A resolution removes the armed correlation's entry, and no other entry is internal (R346, R347). -/
theorem tableInv_resolve {s : State} (h : TableInv s) {c : Correlation} (hc : s.corr = .armed c) (st : Status) (d : List Byte) :
    TableInv (resolve c st d s) := by
  rw [tableInv_iff] at h ⊢
  refine (h.unregister _ _).mono fun k e ⟨he, hne⟩ => internalEntryOk_iff.mpr fun g hg => ?_
  obtain ⟨-, c', hc', rfl, hk⟩ := internalEntryOk_iff.mp he g hg
  obtain rfl := CorrState.armed.inj (hc.symm.trans hc')
  exact absurd hg (hne hk)

/-- The arming adds the first internal entry (R343). -/
theorem tableInv_arm {s : State} (h : TableInv s) (hs : ∀ c, s.corr ≠ .armed c) (c : Correlation) : TableInv (arm c s) := by
  rw [tableInv_iff] at h ⊢
  have hadd : ∀ e : Entry, e.lid = .int s.armGen → e.mode = .sync → InternalEntryOk (arm c s) (ackKey c.identifier) e :=
    fun e hl hm => internalEntryOk_iff.mpr fun g hg => ⟨hm, _, rfl, Handle.int.inj (hl.symm.trans hg), rfl⟩
  refine (h.mono fun _ _ => internalEntryOk_of_staysArmed (staysArmed_of_not_armed hs)).register ?_ (hadd _ rfl rfl)
  exact fun e he => internalEntryOk_not_int hs ((h.listeners _).2 e he) _

theorem MoveShape.keeps_table {s t : State} {m : Move} (h : MoveShape s m t) (hi : TableInv s) : TableInv t := by
  cases h with
  | executes _ _ _ _ _ hx => exact hx.keeps_table hi
  | connected ok => cases ok <;> exact hi
  | resolves _ _ hc | expires _ hc => exact tableInv_resolve hi hc _ _
  | counts c hc =>
    refine tableInv_of_staysArmed hi (fun c' hc' => ?_) rfl
    obtain rfl := CorrState.armed.inj (hc.symm.trans hc')
    exact ⟨_, rfl, rfl, rfl⟩
  | resets => exact ⟨rfl, nofun⟩
  | captures f _ _ _ g =>
    refine tableInv_of_staysArmed ?_ (staysArmed_capture g f _) (capture_subs g f _)
    exact hi
  | answers _ _ _ _ _ _ _ _ _ c hk =>
    obtain rfl | ⟨-, c', hc'⟩ := hk
    · exact hi
    · exact tableInv_of_staysArmed hi (staysArmed_of_not_armed (by simp [hc'])) rfl
  | arms _ _ c _ _ _ _ hk => exact tableInv_arm hi (by simp [hk]) c
  | _ => exact hi

/-- Settles O53: the updates of the table keep it well-formed, and every other move keeps the table and what is armed. -/
theorem stepKeepsTable : Obligations.StepKeepsTable := by
  intro s t hi h
  obtain ⟨_, _, _, -, hm⟩ := step_shape h
  exact hm.keeps_table hi

/-! ### The armed correlation (R55) -/

/-- The deadline's count does not grow and the entries of the armed correlation's key stay. -/
theorem correlationInv_of_le {s t : State} (h : CorrelationInv s) (hcfg : t.cfg = s.cfg)
    (hc : ∀ c', t.corr = .armed c' →
      ∃ c, s.corr = .armed c ∧ c'.gen = c.gen ∧ c'.identifier = c.identifier ∧ c'.pollsLeft ≤ c.pollsLeft)
    (hs : ∀ g k, { lid := .int g, mode := .sync } ∈ SubTable.listeners s.subs k →
      { lid := .int g, mode := .sync } ∈ SubTable.listeners t.subs k) : CorrelationInv t := by
  intro c' hc'
  obtain ⟨c, hc, hg, hid, hp⟩ := hc c' hc'
  obtain ⟨hle, hmem⟩ := h c hc
  rw [hcfg, hg, hid]
  exact ⟨hp.trans hle, hs _ _ hmem⟩

/-- While the correlation and the configuration stay, only the internal entries matter. -/
theorem correlationInv_of_subs {s t : State} (h : CorrelationInv s) (hcfg : t.cfg = s.cfg) (hc : t.corr = s.corr)
    (hs : ∀ g k, { lid := .int g, mode := .sync } ∈ SubTable.listeners s.subs k →
      { lid := .int g, mode := .sync } ∈ SubTable.listeners t.subs k) : CorrelationInv t :=
  correlationInv_of_le h hcfg (fun c' hc' => ⟨c', hc ▸ hc', rfl, rfl, le_rfl⟩) hs

theorem correlationInv_of_not_armed {s : State} (h : ∀ c, s.corr ≠ .armed c) : CorrelationInv s := fun c hc => absurd hc (h c)

theorem ExecShape.keeps_correlation {s t : State} {i : Instr} (h : ExecShape s i t) (hi : CorrelationInv s) (ht : TableInv s) :
    CorrelationInv t := by
  cases h with
  | sendsAcked => exact correlationInv_of_not_armed nofun
  | registers => exact correlationInv_of_subs hi rfl rfl fun _ _ => SubTable.mem_listeners_register
  | unregisters => exact correlationInv_of_subs hi rfl rfl fun _ _ hm => SubTable.mem_listeners_unregister ht.1 hm nofun
  | receives =>
    rw [receiveChunk_eq]
    exact hi
  | _ => exact hi

theorem correlationInv_capture {s : State} (h : CorrelationInv s) (g : Word) (f : DecodedFrame) :
    CorrelationInv (capture g f s) := by
  refine correlationInv_of_le h (capture_cfg g f s) (fun c' hc' => ?_) (fun _ _ hm => (capture_subs g f s).symm ▸ hm)
  obtain heq | ⟨c, hc, heq⟩ := capture_corr_cases g f s
  · exact ⟨c', heq ▸ hc', rfl, rfl, le_rfl⟩
  · obtain rfl := CorrState.armed.inj (heq.symm.trans hc')
    exact ⟨c, hc, rfl, rfl, le_rfl⟩

/-- The arming registers the entry and sets the deadline to ACK_POLLS (R343). -/
theorem correlationInv_arm (c : Correlation) (s : State) : CorrelationInv (arm c s) := by
  intro c' hc'
  obtain rfl := CorrState.armed.inj hc'
  refine ⟨le_rfl, ?_⟩
  rw [arm_subs, SubTable.listeners_register, if_pos rfl]
  exact List.mem_append_right _ List.mem_cons_self

theorem MoveShape.keeps_correlation {s t : State} {m : Move} (h : MoveShape s m t) (hi : CorrelationInv s) (ht : TableInv s) :
    CorrelationInv t := by
  cases h with
  | executes _ _ _ _ _ hx => exact hx.keeps_correlation hi ht
  | connected ok => cases ok <;> exact hi
  | resolves | expires | resets => exact correlationInv_of_not_armed nofun
  | counts c hc =>
    refine correlationInv_of_le hi rfl (fun c' hc' => ?_) (fun _ _ hm => hm)
    obtain rfl := CorrState.armed.inj hc'
    exact ⟨c, hc, rfl, rfl, Nat.sub_le _ _⟩
  | captures f _ _ _ g =>
    refine correlationInv_capture ?_ g f
    exact hi
  | answers _ _ _ _ _ _ _ _ _ c hk =>
    obtain rfl | ⟨rfl, -⟩ := hk
    · exact hi
    · exact correlationInv_of_not_armed nofun
  | arms => exact correlationInv_arm _ _
  | _ => exact hi

/-- Settles O58: a poll only lowers the count, no update of the table but a resolution's removes an internal entry, and the arming
makes both. -/
theorem stepKeepsCorrelation : Obligations.StepKeepsCorrelation := by
  intro s t hi ht h
  obtain ⟨_, _, _, -, hm⟩ := step_shape h
  exact hm.keeps_correlation hi ht

end Sys2Proof.Machine
end

section
/-!
Every step keeps the buffers inside their sizes (10_state.md R47, R48, 20_memory.md R84), the read loop and the dispatch engine
consistent (R45, R46, 42_dispatcher.md R313, R315), and the command engine at a command that waits (R43).
-/

namespace Sys2Proof.Machine

open Sys2Proof.Safety

/-! ### What a descriptor and a move leave alone -/

/-- Only a wire frame writes the batch (R42). -/
theorem ExecShape.batch_eq {s t : State} {i : Instr} (h : ExecShape s i t) (hw : i.onWire = false) : t.batch = s.batch := by
  cases h with
  | receives _ hw' => exact absurd hw' (by simp [hw])
  | _ => rfl

/-- An instruction only adds to the log of outward events. -/
theorem ExecShape.out_grows {s t : State} {i : Instr} (h : ExecShape s i t) : s.out <+: t.out := by
  cases h with
  | asksStop => exact ⟨[], List.append_nil _⟩
  | receives => rw [receiveChunk_eq]
  | _ => exact ⟨_, rfl⟩

/-- A move only adds to the log of outward events. -/
theorem MoveShape.out_grows {s t : State} {m : Move} (h : MoveShape s m t) : s.out <+: t.out := by
  cases h with
  | executes _ _ _ _ _ hx => exact hx.out_grows
  | connected ok => cases ok <;> exact ⟨_, rfl⟩
  | captures => rw [capture_out]
  | rejects | resolves | expires | issues | cancels | delivers | deliversAll | disconnects | answers => exact ⟨_, rfl⟩
  | _ => exact ⟨[], List.append_nil _⟩

/-! ### The buffers -/

theorem ExecShape.keeps_buffers {s t : State} {i : Instr} (h : ExecShape s i t) (hw : i.onWire = false) (hi : BufferInv s) :
    BufferInv t := by
  obtain ⟨hrxwf, htxwf, hrx, htx, hin, hlen, hbatch⟩ := hi
  obtain ⟨hl, hr, -⟩ := h.frame
  have hwf : Memory.wf t.txBuf = true := by
    obtain heq | ⟨F, -, heq⟩ := h.txBuf_cases
    · rwa [heq]
    · rw [heq]
      exact Memory.wf_writeBytes htxwf 0 F
  unfold BufferInv
  rw [hl, hr, h.batch_eq hw]
  exact ⟨hrxwf, hwf, hrx, fun a ha => (h.txBuf_after ha).trans (htx a ha), hin, hlen, hbatch⟩

/-- The deframe step stores at most 500 bytes, reads no other, and gives at most 20 frames (R266, R273). -/
theorem bufferInv_deframe {s : State} (hi : BufferInv s) {T : List Byte} (hT : T.length ≤ 500) :
    BufferInv (endDeframe { loadTransfer T s with batch := transferFrames s.cfg T }) := by
  obtain ⟨hrxwf, htxwf, hrx, htx, -, -, -⟩ := hi
  refine ⟨Memory.wf_writeBytes hrxwf 0 T, htxwf, fun a ha => ?_, htx, fun a ha => ?_, hT, transferFrames_length s.cfg hT⟩
  · exact (Memory.read_writeBytes_after (hT.trans ha) s.rxBuf).trans (hrx a ha)
  · have ha : a < T.length := ha
    show Memory.read (Memory.writeBytes s.rxBuf 0 T) a ≠ none
    simp [Memory.read_writeBytes, List.getElem?_eq_getElem ha]

/-- The dispatch engine takes frames from the batch and adds none (R310, R270). -/
theorem bufferInv_of_batch_le {s : State} (hi : BufferInv s) {b : List DecodedFrame} (hb : b.length ≤ s.batch.length) :
    BufferInv { s with batch := b } := by
  obtain ⟨hrxwf, htxwf, hrx, htx, hin, hlen, hbatch⟩ := hi
  exact ⟨hrxwf, htxwf, hrx, htx, hin, hlen, hb.trans hbatch⟩

theorem MoveShape.keeps_buffers {s t : State} {m : Move} (h : MoveShape s m t) (hi : BufferInv s) : BufferInv t := by
  cases h with
  | executes _ _ _ _ hd hx => exact hx.keeps_buffers (decodeDescriptor_not_onWire hd) hi
  | connected ok => cases ok <;> exact hi
  | deframes T _ _ _ hT => exact bufferInv_deframe hi hT
  | captures =>
    rw [capture_eq]
    exact hi
  | resets => exact ⟨rfl, rfl, fun _ _ => rfl, fun _ _ => rfl, nofun, Nat.zero_le _, Nat.zero_le _⟩
  | discards => exact bufferInv_of_batch_le hi (Nat.zero_le _)
  | drops _ _ _ _ _ hb | starts _ _ _ _ _ hb => exact bufferInv_of_batch_le hi (by simp [hb])
  | _ => exact hi

/-- Settles O54: a command writes `tx_buf` by whole frames, a transfer is at most 500 bytes long, and no other move adds to a
buffer. -/
theorem stepKeepsBuffers : Obligations.StepKeepsBuffers := by
  intro s t hi h
  obtain ⟨_, _, _, -, hm⟩ := step_shape h
  exact hm.keeps_buffers hi

/-! ### The read loop -/

/-- A read or a dispatch is going on only while the loop runs. -/
theorem running_of_rdState {s : State} (hi : LoopInv s) (h : s.rdState ≠ .idle) : s.running = true := by
  cases hr : s.running with
  | false => exact absurd (hi.1 hr).1 h
  | true => rfl

/-- A dispatch is going on only in DISPATCHING. -/
theorem rdState_of_dispState {s : State} (hi : LoopInv s) (h : s.dispState ≠ .idle) : s.rdState = .dispatching :=
  Decidable.byContradiction fun hr => h (hi.2 hr).2

theorem ExecShape.keeps_loop {s t : State} {i : Instr} (h : ExecShape s i t) (hw : i.onWire = false) (hi : LoopInv s) :
    LoopInv t := by
  cases h with
  | asksStop _ hr => exact ⟨fun h => absurd (hr.symm.trans h) nofun, hi.2⟩
  | starts _ _ hr => exact ⟨nofun, fun _ => hi.2 (by simp [(hi.1 hr).1])⟩
  | receives _ hw' => exact absurd hw' (by simp [hw])
  | _ => exact hi

/-- The deframe step ends in DISPATCHING unless its batch is empty (R266). -/
theorem loopInv_deframe {s : State} (hi : LoopInv s) (hr : s.rdState = .readPending) {T : List Byte} {b : List DecodedFrame} :
    LoopInv (endDeframe { loadTransfer T s with batch := b }) := by
  have hrun : s.running = true := running_of_rdState hi (by simp [hr])
  have hdisp : s.dispState = .idle := (hi.2 (by simp [hr])).2
  refine ⟨fun h => absurd (hrun.symm.trans h) nofun, fun h => ⟨?_, hdisp⟩⟩
  exact Decidable.byContradiction fun hb => h (if_neg hb)

/-- In DISPATCHING the batch and the dispatch are free. -/
theorem loopInv_of_dispatching {s : State} (hi : LoopInv s) (hr : s.rdState = .dispatching) (b : List DecodedFrame)
    (d : DispState) : LoopInv { s with batch := b, dispState := d } :=
  ⟨hi.1, fun h => absurd hr h⟩

theorem MoveShape.keeps_loop {s t : State} {m : Move} (h : MoveShape s m t) (hi : LoopInv s) : LoopInv t := by
  cases h with
  | executes _ _ _ _ hd hx => exact hx.keeps_loop (decodeDescriptor_not_onWire hd) hi
  | connected ok => cases ok <;> exact hi
  | endsRead _ _ hr => exact ⟨fun h => ⟨rfl, (hi.1 h).2⟩, fun _ => hi.2 (by simp [hr])⟩
  | deframes _ hr => exact loopInv_deframe hi hr
  | syncDone _ _ _ _ _ hd | asyncDone _ _ _ hd | delivers _ _ _ _ _ hd | deliversAll _ _ _ hd =>
    exact loopInv_of_dispatching hi (rdState_of_dispState hi (by simp [hd])) _ _
  | captures _ _ _ _ _ hd =>
    rw [capture_eq]
    exact loopInv_of_dispatching hi (rdState_of_dispState hi (by simp [hd])) _ _
  | issues hr _ hid => exact ⟨fun h => absurd (hr.symm.trans h) nofun, fun _ => hi.2 (by simp [hid])⟩
  | stops _ hr | cancels _ hr => exact ⟨fun _ => ⟨rfl, rfl⟩, fun _ => hi.2 (by simp [hr])⟩
  | resets | discards => exact ⟨fun _ => ⟨rfl, rfl⟩, fun _ => ⟨rfl, rfl⟩⟩
  | endsBatch _ hb hd => exact ⟨fun h => ⟨rfl, (hi.1 h).2⟩, fun _ => ⟨hb, hd⟩⟩
  | drops _ _ hr | starts _ _ hr => exact loopInv_of_dispatching hi hr _ _
  | _ => exact hi

/-! ### The dispatch engine -/

/-- What has been delivered stays delivered. -/
theorem dispatchInv_mono {s t : State} (hi : DispatchInv s) (hd : t.dispState = s.dispState) (ho : s.out ⊆ t.out) :
    DispatchInv t := by
  unfold DispatchInv at hi ⊢
  rw [hd]
  split at hi
  · trivial
  · trivial
  · obtain ⟨j, lid, hj, hm⟩ := hi
    exact ⟨j, lid, hj, ho hm⟩
  · obtain ⟨hw, hm⟩ := hi
    exact ⟨hw, fun h hh => ho (hm h hh)⟩

/-- With no delivery awaited there is nothing to show. -/
theorem dispatchInv_of_sync {t : State} {f : DecodedFrame} {l : List Entry} {k : Nat} (hd : t.dispState = .sync f l k false) :
    DispatchInv t := by
  unfold DispatchInv
  rw [hd]
  trivial

/-- An asynchronous wait for listeners that have been delivered the frame (R314, R315). -/
theorem dispatchInv_of_async {t : State} {f : DecodedFrame} {w : List Handle}
    (hd : t.dispState = if w = [] then .idle else .async f w) (hw : ∀ h ∈ w, .deliver h f ∈ t.out) : DispatchInv t := by
  unfold DispatchInv
  rw [hd]
  split_ifs with hn
  · trivial
  · exact ⟨hn, hw⟩

theorem MoveShape.keeps_dispatch {s t : State} {m : Move} (h : MoveShape s m t) (hi : DispatchInv s) : DispatchInv t := by
  have hout : s.out ⊆ t.out := h.out_grows.subset
  cases h with
  | executes _ _ _ _ _ hx => exact dispatchInv_mono hi hx.dispState_eq hout
  | connected ok _ tag => exact dispatchInv_mono hi (finishConnect_dispState tag ok s) hout
  | syncDone | starts => exact dispatchInv_of_sync rfl
  | captures f _ _ _ g => exact dispatchInv_of_sync (capture_dispState g f _)
  | delivers f _ _ j lid _ hj => exact ⟨j, lid, hj, List.mem_append_right _ List.mem_cons_self⟩
  | asyncDone lid f w hd =>
    unfold DispatchInv at hi
    rw [hd] at hi
    exact dispatchInv_of_async (awaitAll_dispState f _ s) fun h hh => hi.2 h (List.mem_of_mem_filter hh)
  | deliversAll f l =>
    refine dispatchInv_of_async (awaitAll_dispState f (asyncHandles l) s) fun h hh => ?_
    exact List.mem_append_right _ (List.mem_map.mpr ⟨h, hh, rfl⟩)
  | resets | discards => trivial
  | _ => exact dispatchInv_mono hi rfl hout

/-- Settles O56: the read loop and the dispatch engine move together, and every wait begins with its deliveries. -/
theorem stepKeepsLoopAndDispatch : Obligations.StepKeepsLoopAndDispatch := by
  intro s t h
  obtain ⟨_, _, _, -, hm⟩ := step_shape h
  exact ⟨hm.keeps_loop, hm.keeps_dispatch⟩

/-! ### The command engine -/

/-- No command waits: no write, no stop request, no correlation before its arming. -/
theorem commandInv_of_idle {t : State} (hc : t.cmdState = .idle) (ho : t.outPort = .idle) (hs : t.stopReq = false)
    (hk : ∀ c, t.corr ≠ .writing c) : CommandInv t := by
  unfold CommandInv
  rw [hc]
  exact ⟨ho, hs, hk⟩

theorem commandInv_of_exec {t : State} {d : List Byte} {i : Instr} (hc : t.cmdState = .exec d)
    (hd : decodeDescriptor d = .ok i) (hw : CommandWaits t i) : CommandInv t := by
  unfold CommandInv
  rw [hc]
  exact ⟨i, hd, hw⟩

theorem idle_of_commandInv {s : State} (hi : CommandInv s) (hc : s.cmdState = .idle) :
    s.outPort = .idle ∧ s.stopReq = false ∧ ∀ c, s.corr ≠ .writing c := by
  unfold CommandInv at hi
  rwa [hc] at hi

theorem commandWaits_of_commandInv {s : State} (hi : CommandInv s) {d : List Byte} {i : Instr} (hc : s.cmdState = .exec d)
    (hd : decodeDescriptor d = .ok i) : CommandWaits s i := by
  unfold CommandInv at hi
  rw [hc] at hi
  obtain ⟨i', hd', hw⟩ := hi
  obtain rfl := Except.ok.inj (hd.symm.trans hd')
  exact hw

/-- A move keeps the command engine's invariant if it changes none of what a command waits for. -/
theorem commandInv_congr {s t : State} (hi : CommandInv s) (hc : t.cmdState = s.cmdState)
    (ho : t.outPort = .idle ↔ s.outPort = .idle) (hs : t.stopReq = s.stopReq) (hr : t.running = s.running)
    (hk : ∀ c, t.corr = .writing c ↔ s.corr = .writing c) : CommandInv t := by
  have hwaits : ∀ i, CommandWaits t i ↔ CommandWaits s i := fun i => by
    cases i <;> simp only [CommandWaits, ho, hs, hr, hk, ne_eq]
  unfold CommandInv at hi ⊢
  simpa only [hc, ho, hs, hk, hwaits, ne_eq] using hi

/-- The end of the loop: the command that asked for it waits on, for a loop that no longer runs (R270, R263). -/
theorem commandInv_of_loop_ended {s t : State} (hi : CommandInv s) (hs : s.stopReq = true) (hc : t.cmdState = s.cmdState)
    (ho : t.outPort = s.outPort) (hr : t.running = false) (hk : t.corr = s.corr) : CommandInv t := by
  have hrun : t.running = true → t.stopReq = true := fun h => absurd (hr.symm.trans h) nofun
  cases hcs : s.cmdState with
  | idle =>
    obtain ⟨-, hs', -⟩ := idle_of_commandInv hi hcs
    exact absurd (hs.symm.trans hs') nofun
  | exec d =>
    unfold CommandInv at hi
    rw [hcs] at hi
    obtain ⟨i, hd, hw⟩ := hi
    refine commandInv_of_exec (hc.trans hcs) hd ?_
    cases i with
    | stop | disconnect =>
      obtain ⟨ho', -, hk'⟩ := hw
      exact ⟨ho.trans ho', hrun, hk ▸ hk'⟩
    | connect | send | sendAcked =>
      obtain ⟨-, hs', -⟩ := hw
      exact absurd (hs.symm.trans hs') nofun
    | _ => exact hw

/-- A descriptor's command ends at once, or waits for what it has just asked for (R43). -/
theorem ExecShape.keeps_command {s t : State} {i : Instr} (h : ExecShape s i t) {d : List Byte} (hc : s.cmdState = .exec d)
    (hd : decodeDescriptor d = .ok i) (ho : s.outPort = .idle) (hs : s.stopReq = false) (hk : ∀ c, s.corr ≠ .writing c) :
    CommandInv t := by
  cases h with
  | responds | stores | disconnects | starts | registers | unregisters => exact commandInv_of_idle rfl ho (by simp [hs]) hk
  | sends => exact commandInv_of_exec hc hd ⟨nofun, hs, hk⟩
  | sendsAcked => exact commandInv_of_exec hc hd ⟨nofun, hs, _, rfl, rfl, rfl⟩
  | connects => exact commandInv_of_exec hc hd ⟨ho, hs, hk⟩
  | asksStop _ _ hi =>
    obtain ⟨_, rfl⟩ | ⟨_, rfl⟩ := hi
    · exact commandInv_of_exec hc hd ⟨ho, fun _ => rfl, hk⟩
    · exact commandInv_of_exec hc hd ⟨ho, fun _ => rfl, hk⟩
  | receives _ hw => exact absurd hw (by simp [decodeDescriptor_not_onWire hd])

theorem MoveShape.keeps_command {s t : State} {m : Move} (h : MoveShape s m t) (hm : m ≠ .resume) (hi : CommandInv s) :
    CommandInv t := by
  cases h with
  | executes _ _ _ hc hd hx =>
    obtain ⟨ho, hs, hk⟩ := idle_of_commandInv hi hc
    exact hx.keeps_command rfl hd ho hs hk
  | rejects _ hc =>
    obtain ⟨ho, hs, hk⟩ := idle_of_commandInv hi hc
    exact commandInv_of_idle rfl ho hs hk
  | connected ok _ _ hc hd =>
    obtain ⟨ho, hs, hk⟩ := commandWaits_of_commandInv hi hc hd
    cases ok <;> exact commandInv_of_idle rfl ho hs hk
  | written w hb => exact commandInv_congr hi rfl (by simp [hb]) rfl rfl fun _ => Iff.rfl
  | resolves _ _ hc | expires _ hc | counts _ hc => exact commandInv_congr hi rfl Iff.rfl rfl rfl fun _ => by simp [hc]
  | captures f _ _ _ g =>
    rw [capture_eq]
    refine commandInv_congr hi rfl Iff.rfl rfl rfl fun c => ?_
    obtain heq | ⟨_, hc, heq⟩ := capture_corr_cases g f { s with dispState := _ }
    · rw [heq]
    · rw [heq]
      simp [show s.corr = _ from hc]
  | resets => exact commandInv_of_idle rfl rfl rfl nofun
  | stops hs | cancels hs | discards hs => exact commandInv_of_loop_ended hi hs rfl rfl rfl rfl
  | disconnects | answers | arms => exact absurd rfl hm
  | _ => exact hi

/-- A command goes on after its write, or waits for it (R274, R340). -/
theorem commandInv_afterWrite {f : Fin 26 → State → State} {s : State} (hi : CommandInv s) (hf : ∀ w, CommandInv (f w s)) :
    CommandInv (afterWrite f s) := by
  unfold afterWrite
  split
  · exact hf _
  · exact hi
  · exact hi

theorem commandInv_finishSend {s : State} (hs : s.stopReq = false) (hk : ∀ c, s.corr ≠ .writing c) (tag : Byte) (w : Fin 26) :
    CommandInv (finishSend tag w s) := by
  unfold finishSend
  split
  · exact commandInv_of_idle rfl rfl hs hk
  · exact commandInv_of_idle rfl rfl hs hk

theorem commandInv_finishSendAcked {s : State} (hs : s.stopReq = false) {c : Correlation} (hk : s.corr = .writing c) (tag : Byte)
    (w : Fin 26) : CommandInv (finishSendAcked tag w s) := by
  unfold finishSendAcked
  rw [hk]
  dsimp only
  split
  · exact commandInv_of_idle rfl rfl hs nofun
  · exact commandInv_of_idle rfl rfl hs nofun

/-- What follows an `await` ends the command, or it waits on (R261, R263, R274, R340). -/
theorem commandInv_resumeCommand {s : State} (hl : LoopInv s) (hi : CommandInv s) : CommandInv (resumeCommand s) := by
  unfold resumeCommand
  split
  · exact hi
  · rename_i d hc
    split
    · rename_i i hd
      have hw := commandWaits_of_commandInv hi hc hd
      cases i with
      | disconnect | stop =>
        obtain ⟨ho, -, hk⟩ := hw
        simp only [resumeInstr]
        split
        · exact hi
        · rename_i hr
          exact commandInv_of_idle rfl ho (hl.1 (Bool.eq_false_iff.mpr hr)).2 hk
      | send =>
        obtain ⟨-, hs, hk⟩ := hw
        exact commandInv_afterWrite hi (commandInv_finishSend hs hk _)
      | sendAcked =>
        obtain ⟨-, hs, c, hk, -⟩ := hw
        exact commandInv_afterWrite hi (commandInv_finishSendAcked hs hk _)
      | _ => exact hi
    · exact hi

/-- Settles O57: a move of another agent leaves what the command waits for, or brings it about; the command engine's own move ends the
command once it has happened. -/
theorem stepKeepsCommand : Obligations.StepKeepsCommand := by
  intro s t hl hi h
  obtain ⟨a, c, hs⟩ := step_performs s
  rw [hs] at h
  by_cases hm : (takeMove s).1 = .resume
  · rw [hm] at h
    obtain rfl := Host.Outcome.next.inj h
    exact commandInv_resumeCommand (s := { s with agenda := a, clock := c }) hl hi
  · exact (perform_shape h).keeps_command hm hi

end Sys2Proof.Machine
end

section
/-!
Idempotent commands (20_memory.md R90). What such a command writes, it writes again in the same place: storing the bytes a buffer
already holds and removing a handle that is not listed leave a canonical buffer and table as they are, and a second SUBSCRIBE finds the
listener it has registered (R302).
-/

namespace Sys2Proof.Machine

open Sys2Proof.Safety

/-! ### Writes that change nothing -/

/-- Inserting the value a key already has changes nothing (R15). -/
theorem tableInsert_of_find {κ ν : Type} {code : κ → Nat} (hinj : ∀ k k', code k = code k' → k = k') {k : κ} {v : ν}
    {m : List (κ × ν)} (hm : tableOrdered code m = true) (h : tableFind code k m = some v) : tableInsert code k v m = m := by
  induction m with
  | nil => cases h
  | cons a m ih =>
    obtain ⟨hlt, hm⟩ := (tableOrdered_cons code).mp hm
    by_cases hk : code k = code a.1
    · have hv : a.2 = v := by simpa [tableFind, hk] using h
      simp [tableInsert, hinj _ _ hk, ← hv]
    · have h : tableFind code k m = some v := by simpa [tableFind, hk] using h
      obtain ⟨k', hk', hmem⟩ := mem_of_tableFind code h
      have hnlt : ¬ code k < code a.1 := by
        have : code a.1 < code k' := hlt _ hmem
        omega
      simp [tableInsert, hk, hnlt, ih hm h]

theorem Memory.write_of_read {m : Memory} (hm : Memory.wf m = true) {a : Nat} {b : Byte} (h : Memory.read m a = some b) :
    Memory.write m a b = m :=
  tableInsert_of_find (fun _ _ hk => hk) hm h

/-- Storing the bytes a buffer already holds changes nothing. -/
theorem Memory.writeBytes_of_read {m : Memory} (hm : Memory.wf m = true) {a : Nat} {B : List Byte}
    (h : ∀ i, i < B.length → Memory.read m (a + i) = B[i]?) : Memory.writeBytes m a B = m := by
  induction B generalizing a with
  | nil => rfl
  | cons b B ih =>
    have hb : Memory.read m a = some b := by simpa using h 0 (by simp)
    rw [Memory.writeBytes, Memory.write_of_read hm hb]
    refine ih fun i hi => ?_
    rw [Nat.add_assoc, Nat.add_comm 1 i, h (i + 1) (Nat.succ_lt_succ hi), List.getElem?_cons_succ]

theorem Memory.writeBytes_writeBytes {m : Memory} (hm : Memory.wf m = true) (a : Nat) (B : List Byte) :
    Memory.writeBytes (Memory.writeBytes m a B) a B = Memory.writeBytes m a B := by
  refine Memory.writeBytes_of_read (Memory.wf_writeBytes hm a B) fun i hi => ?_
  simp [Memory.read_writeBytes, hi]

/-- Removing a handle that is not listed under the key changes nothing (R305). -/
theorem SubTable.unregister_of_not_listed {P : Key → Entry → Prop} {t : SubTable} (ht : TableWf P t) {k : Key} {hd : Handle}
    (h : ∀ e ∈ SubTable.listeners t k, e.lid ≠ hd) : SubTable.unregister t k hd = t := by
  rw [SubTable.unregister]
  split
  · rfl
  · rename_i l hl
    have hfilter : l.filter (fun e => decide (e.lid ≠ hd)) = l :=
      List.filter_eq_self.mpr fun e he => decide_eq_true (h e (by simpa [SubTable.listeners, hl] using he))
    rw [hfilter]
    split
    · exact absurd rfl (ht.2 k [] hl).1
    · exact tableInsert_of_find (fun _ _ => Key.code_injective) ht.1 hl

theorem SubTable.unregister_unregister {P : Key → Entry → Prop} {t : SubTable} (ht : TableWf P t) (k : Key) (hd : Handle) :
    SubTable.unregister (SubTable.unregister t k hd) k hd = SubTable.unregister t k hd := by
  have hwf := ht.unregister k hd
  exact SubTable.unregister_of_not_listed hwf fun e he => ((hwf.listeners k).2 e he).2 rfl

/-! ### Commands that answer twice alike -/

/-- `i` ends in `s` with one response, and, issued again, with the same one and without another effect. -/
def AnswersTwiceAlike (i : Instr) (s : State) : Prop :=
  ∃ o g st d s', s'.out = s.out ∧ exec i s = .next (respond o g st d s') ∧
    exec i (respond o g st d s') = .next (respond o g st d (respond o g st d s'))

theorem AnswersTwiceAlike.repeated {i : Instr} {s t : State} (h : AnswersTwiceAlike i s) (ht : exec i s = .next t) :
    ∃ r, t.out = s.out ++ [.response r] ∧ exec i t = .next { t with out := t.out ++ [.response r] } := by
  obtain ⟨o, g, st, d, s', hout, h1, h2⟩ := h
  obtain rfl := Host.Outcome.next.inj (h1.symm.trans ht)
  exact ⟨responseBytes o g st d, by rw [respond_out, hout], h2⟩

/-- A command that only responds, and whose response rests on the configuration and the table alone. -/
theorem answersTwiceAlike_of_responds {i : Instr} {s : State} (o g : Byte) (st : Status) (d : List Byte)
    (h : ∀ u : State, u.cfg = s.cfg → u.subs = s.subs → exec i u = .next (respond o g st d u)) : AnswersTwiceAlike i s :=
  ⟨o, g, st, d, s, rfl, h s rfl rfl, h _ rfl rfl⟩

/-- A command that makes the update `w` and responds, and whose update, made again, changes nothing. -/
theorem answersTwiceAlike_of_writes {i : Instr} {s : State} (w : State → State) (o g : Byte) (st : Status) (d : List Byte)
    (h : ∀ u : State, u.cfg = s.cfg → exec i u = .next (respond o g st d (w u))) (hout : (w s).out = s.out)
    (hcfg : (w s).cfg = s.cfg) (hw : w (respond o g st d (w s)) = respond o g st d (w s)) : AnswersTwiceAlike i s :=
  ⟨o, g, st, d, w s, hout, h s rfl, by rw [h (respond o g st d (w s)) hcfg, hw]⟩

theorem answersTwiceAlike_decode (tag : Byte) (B : List Byte) (s : State) : AnswersTwiceAlike (.decode tag B) s := by
  cases hB : decodeBytes s.cfg B with
  | error r =>
    exact answersTwiceAlike_of_responds opcDecode tag .invalid [r.code] fun u hc _ => by simp only [exec, execDecode, hc, hB]
  | ok f =>
    exact answersTwiceAlike_of_responds opcDecode tag .ok (decodeRecord f) fun u hc _ => by simp only [exec, execDecode, hc, hB]

/-- ENCODE stores the same 25 bytes at the same offsets (R210). -/
theorem answersTwiceAlike_encode (tag n k : Byte) (x : Word) (l p : Byte) (b : List Byte) {s : State}
    (hs : Memory.wf s.txBuf = true) : AnswersTwiceAlike (.encode tag n k x l p b) s := by
  cases hF : encodeFrame s.cfg n k x l p b with
  | none =>
    exact answersTwiceAlike_of_responds opcEncode tag .argError [] fun u hc _ => by
      simp only [exec, execEncode, hc, hF, raise]
  | some F =>
    refine answersTwiceAlike_of_writes (storeFrame F) opcEncode tag .ok F (fun u hc => ?_) rfl rfl ?_
    · simp only [exec, execEncode, hc, hF]
    · rw [storeFrame, respond_txBuf, storeFrame_txBuf, Memory.writeBytes_writeBytes hs]
      rfl

/-- SUBSCRIBE of a listed listener answers OK and keeps the entry it has (R302). -/
theorem exec_subscribe_of_listed {s : State} {k : Key} {lid : Half} {md : Byte} (tag : Byte)
    (hfit : (lidFits s.cfg lid && modeFits md) = true) (h : ∃ e ∈ SubTable.listeners s.subs k, e.lid = .ext lid) :
    exec (.subscribe tag k.identifier k.marker lid md) s = .next (respond opcSubscribe tag .ok [] s) := by
  have hany : (SubTable.listeners s.subs k).any (fun e => decide (e.lid = .ext lid)) = true := by simpa using h
  simp [exec, execSubscribe, hfit, hany]

/-- A refused SUBSCRIBE meets the same table again; an accepted one finds its own entry. -/
theorem answersTwiceAlike_subscribe (tag : Byte) (k : Key) (lid : Half) (md : Byte) (s : State) :
    AnswersTwiceAlike (.subscribe tag k.identifier k.marker lid md) s := by
  by_cases hfit : (lidFits s.cfg lid && modeFits md) = true
  case neg =>
    exact answersTwiceAlike_of_responds opcSubscribe tag .argError [] fun u hc _ => by
      simp [exec, execSubscribe, hc, hfit, raise]
  by_cases hlisted : ∃ e ∈ SubTable.listeners s.subs k, e.lid = .ext lid
  case pos =>
    exact answersTwiceAlike_of_responds opcSubscribe tag .ok [] fun u hc hs =>
      exec_subscribe_of_listed tag (hc ▸ hfit) (hs ▸ hlisted)
  have hany : (SubTable.listeners s.subs k).any (fun e => decide (e.lid = .ext lid)) = false := by simpa using hlisted
  by_cases hkeys : ((SubTable.find s.subs k).isNone && limitReached s.cfg.maxKeys (extKeys s.subs)) = true
  case pos =>
    exact answersTwiceAlike_of_responds opcSubscribe tag .full [] fun u hc hs => by
      simp [exec, execSubscribe, hc, hs, hfit, hany, hkeys, raise]
  by_cases hlist :
      ((SubTable.find s.subs k).isSome && limitReached s.cfg.maxListeners (extCount (SubTable.listeners s.subs k))) = true
  case pos =>
    exact answersTwiceAlike_of_responds opcSubscribe tag .full [] fun u hc hs => by
      simp [exec, execSubscribe, hc, hs, hfit, hany, hlist, raise]
  refine ⟨opcSubscribe, tag, .ok, [],
    ({ s with subs := SubTable.register s.subs k { lid := .ext lid, mode := listenModeOf md } } : State),
    rfl, ?_, exec_subscribe_of_listed tag hfit ?_⟩
  · simp [exec, execSubscribe, hfit, hany, hkeys, hlist]
  · simp [SubTable.listeners_register]

/-- A second UNSUBSCRIBE finds nothing to remove (R306). -/
theorem answersTwiceAlike_unsubscribe (tag : Byte) (k : Key) (lid : Half) (md : Byte) {s : State} (hs : TableInv s) :
    AnswersTwiceAlike (.unsubscribe tag k.identifier k.marker lid md) s := by
  cases hfit : lidFits s.cfg lid with
  | false =>
    exact answersTwiceAlike_of_responds opcUnsubscribe tag .argError [] fun u hc _ => by
      simp [exec, execUnsubscribe, hc, hfit, raise]
  | true =>
    refine answersTwiceAlike_of_writes (fun u => { u with subs := SubTable.unregister u.subs k (.ext lid) })
      opcUnsubscribe tag .ok [] (fun u hc => ?_) rfl rfl ?_
    · simp [exec, execUnsubscribe, hc, hfit]
    · simp only [respond_subs, SubTable.unregister_unregister ((tableInv_iff s).mp hs)]
      rfl

/-- Settles O31: STATUS, DECODE and CHECKSUM write nothing, and what ENCODE, SUBSCRIBE and UNSUBSCRIBE have written they find in
place. -/
theorem repeatedCommandChangesNothing : Obligations.RepeatedCommandChangesNothing := by
  intro i s t htable hbuf _ hi ht
  obtain ⟨-, htx, -⟩ := hbuf
  refine AnswersTwiceAlike.repeated ?_ ht
  cases i with
  | status tag => exact ⟨opcStatus, tag, .ok, [statusView s], s, rfl, rfl, rfl⟩
  | checksum tag data =>
    exact ⟨opcChecksum, tag, .ok, bytesLe32 (crc32Ssb s.cfg.crcTable data), s, rfl, rfl, rfl⟩
  | decode tag B => exact answersTwiceAlike_decode tag B s
  | encode tag n k x l p b => exact answersTwiceAlike_encode tag n k x l p b htx
  | subscribe tag x m lid md => exact answersTwiceAlike_subscribe tag { marker := m, identifier := x } lid md s
  | unsubscribe tag x m lid md => exact answersTwiceAlike_unsubscribe tag { marker := m, identifier := x } lid md htable
  | _ => exact hi.elim

end Sys2Proof.Machine
end

section
/-!
Encodings (30_encoding.md). `encode` and the two decoders are inverse to each other, one format of R132 at a time; the opcode map of
R131 then says which byte strings are commands, and every other one is answered BAD_COMMAND (R134, R135).
-/

namespace Sys2Proof

open Sys2Proof.Machine Sys2Proof.Claims

/-! ### Decoding what a format spells (R120, R132) -/

theorem decodeFormatF_fields (mk : Byte → Byte → Byte → Word → Byte → Byte → List Byte → Instr) (tag node kind : Byte)
    (ident : Word) (len pcount : Byte) {payload : List Byte} (h : payload.length = 8) :
    decodeFormatF mk ([tag, node, kind] ++ bytesLe32 ident ++ [len, pcount] ++ payload) =
      .ok (mk tag node kind ident len pcount payload) := by
  simp [decodeFormatF, bytesLe32, h]

theorem decodeFormatS_fields (mk : Byte → Word → Half → Half → Byte → Instr) (tag : Byte) (ident : Word) (marker lid : Half)
    (mode : Byte) :
    decodeFormatS mk ([tag] ++ bytesLe32 ident ++ bytesLe16 marker ++ bytesLe16 lid ++ [mode]) =
      .ok (mk tag ident marker lid mode) := by
  simp [decodeFormatS, bytesLe32, bytesLe16]

/-- BLEN is one byte: it counts up to 255 bytes (R132). -/
theorem decodeFormatD_fields (mk : Byte → List Byte → Instr) (tag : Byte) {bytes : List Byte} (h : bytes.length < 256) :
    decodeFormatD mk ([tag, BitVec.ofNat 8 bytes.length] ++ bytes) = .ok (mk tag bytes) := by
  simp [decodeFormatD, Nat.mod_eq_of_lt h]

theorem decodeFormatC_fields (mk : Byte → List Byte → Instr) (tag : Byte) {data : List Byte} (h : data.length = 21) :
    decodeFormatC mk (tag :: data) = .ok (mk tag data) := if_pos h

/-- A string with the marker of a DATA frame decodes to a DATA frame of its fields, one with that of an ACK frame to an ACK frame
(R121, R122). -/
theorem decodeFrame_frameBytes {marker : Half} (tick : Word) (node kind : Byte) (ident : Word) (len : Byte)
    {payload : List Byte} (h : payload.length = 8) (checksum : Word) :
    decodeFrame (frameBytes marker tick node kind ident len payload checksum) =
      if marker = markerData then .ok (.dataFrame tick node kind ident len payload checksum)
      else if marker = markerAck then .ok (.ackFrame tick node kind ident len payload checksum)
      else .error .unknownMarker := by
  obtain ⟨hm, ht, hn, hk, hi, hl, hp, hc, -⟩ := frameBytes_fields marker tick node kind ident len h checksum
  have hF : (frameBytes marker tick node kind ident len payload checksum).length = frameLen := by simp [h]
  rw [decodeFrame, if_pos hF, hm, ht, hn, hk, hi, hl, hp, hc]

/-- Settles O2: the opcode or the marker selects the format, and each format reads its fields back. -/
theorem decodeOfEncode : Obligations.DecodeOfEncode := by
  intro i hi
  cases i with
  | connect | disconnect | start | stop | status => rfl
  | encode tag node kind ident len pcount payload | send tag node kind ident len pcount payload
  | sendAcked tag node kind ident len pcount payload => exact decodeFormatF_fields _ tag node kind ident len pcount (eq_of_beq hi)
  | decode tag bytes => exact decodeFormatD_fields _ tag (of_decide_eq_true hi)
  | checksum tag data => exact decodeFormatC_fields _ tag (eq_of_beq hi)
  | subscribe tag ident marker lid mode | unsubscribe tag ident marker lid mode =>
    exact decodeFormatS_fields _ tag ident marker lid mode
  | dataFrame tick node kind ident len payload checksum | ackFrame tick node kind ident len payload checksum =>
    exact decodeFrame_frameBytes tick node kind ident len (eq_of_beq hi) checksum

/-! ### Encoding what a decoder has read (R131, R132, R138) -/

/-- The instruction is one that an encoding can spell, and `B` is its encoding. -/
def SpelledBy (i : Instr) (B : List Byte) : Prop := encode i = B ∧ i.wellFormed = true

theorem spelledBy_of_formatH {opc : Byte} {mk : Byte → Instr} {r : List Byte} {i : Instr} (h : decodeFormatH mk r = .ok i)
    (hmk : ∀ tag, SpelledBy (mk tag) [opc, tag]) : SpelledBy i (opc :: r) := by
  obtain ⟨tag, rfl, rfl⟩ := decodeFormatH_ok h
  exact hmk tag

theorem spelledBy_of_formatF {opc : Byte} {mk : Byte → Byte → Byte → Word → Byte → Byte → List Byte → Instr} {r : List Byte}
    {i : Instr} (h : decodeFormatF mk r = .ok i)
    (hmk : ∀ tag node kind ident len pcount payload, payload.length = 8 →
      SpelledBy (mk tag node kind ident len pcount payload) (encodeFormatF opc tag node kind ident len pcount payload)) :
    SpelledBy i (opc :: r) := by
  obtain ⟨tag, node, kind, i0, i1, i2, i3, len, pcount, payload, rfl, hlen, rfl⟩ := decodeFormatF_ok h
  simpa [encodeFormatF] using hmk tag node kind (word32 i0 i1 i2 i3) len pcount payload hlen

theorem spelledBy_of_formatS {opc : Byte} {mk : Byte → Word → Half → Half → Byte → Instr} {r : List Byte} {i : Instr}
    (h : decodeFormatS mk r = .ok i)
    (hmk : ∀ tag ident marker lid mode, SpelledBy (mk tag ident marker lid mode) (encodeFormatS opc tag ident marker lid mode)) :
    SpelledBy i (opc :: r) := by
  obtain ⟨tag, i0, i1, i2, i3, m0, m1, l0, l1, mode, rfl, rfl⟩ := decodeFormatS_ok h
  simpa [encodeFormatS] using hmk tag (word32 i0 i1 i2 i3) (word16 m0 m1) (word16 l0 l1) mode

theorem spelledBy_of_formatD {r : List Byte} {i : Instr} (h : decodeFormatD .decode r = .ok i) :
    SpelledBy i (opcDecode :: r) := by
  obtain ⟨tag, blen, bytes, rfl, hlen, rfl⟩ := decodeFormatD_ok h
  have hb := blen.isLt
  exact ⟨by simp [encode, hlen], decide_eq_true (by omega)⟩

theorem spelledBy_of_formatC {r : List Byte} {i : Instr} (h : decodeFormatC .checksum r = .ok i) :
    SpelledBy i (opcChecksum :: r) := by
  obtain ⟨tag, data, rfl, hlen, rfl⟩ := decodeFormatC_ok h
  exact ⟨rfl, beq_iff_eq.mpr hlen⟩

theorem spelledBy_of_decodeDescriptor {d : List Byte} {i : Instr} (h : decodeDescriptor d = .ok i) : SpelledBy i d := by
  cases d with
  | nil => cases h
  | cons opc r =>
    obtain ⟨rfl, h⟩ | ⟨rfl, h⟩ | ⟨rfl, h⟩ | ⟨rfl, h⟩ | ⟨rfl, h⟩ | ⟨rfl, h⟩ | ⟨rfl, h⟩ | ⟨rfl, h⟩ | ⟨rfl, h⟩ | ⟨rfl, h⟩ | ⟨rfl, h⟩ |
      ⟨rfl, h⟩ := decodeDescriptor_ok h
    iterate 5 exact spelledBy_of_formatH h fun _ => ⟨rfl, rfl⟩
    · exact spelledBy_of_formatF h fun _ _ _ _ _ _ _ hp => ⟨rfl, beq_iff_eq.mpr hp⟩
    · exact spelledBy_of_formatD h
    · exact spelledBy_of_formatC h
    · exact spelledBy_of_formatF h fun _ _ _ _ _ _ _ hp => ⟨rfl, beq_iff_eq.mpr hp⟩
    · exact spelledBy_of_formatF h fun _ _ _ _ _ _ _ hp => ⟨rfl, beq_iff_eq.mpr hp⟩
    · exact spelledBy_of_formatS h fun _ _ _ _ _ => ⟨rfl, rfl⟩
    · exact spelledBy_of_formatS h fun _ _ _ _ _ => ⟨rfl, rfl⟩

theorem spelledBy_of_decodeFrame {F : List Byte} {i : Instr} (h : decodeFrame F = .ok i) :
    SpelledBy i F ∧ i.onWire = true := by
  obtain ⟨hlen, h⟩ | h := ok_of_ite h
  · have hF := frameBytes_of_fields hlen
    have hp : (slice F 13 21).length = 8 := by simp [slice, hlen]
    obtain ⟨hm, h⟩ | h := ok_of_ite h
    · obtain rfl := Except.ok.inj h
      exact ⟨⟨by rwa [hm] at hF, beq_iff_eq.mpr hp⟩, rfl⟩
    · obtain ⟨hm, h⟩ | h := ok_of_ite h
      · obtain rfl := Except.ok.inj h
        exact ⟨⟨by rwa [hm] at hF, beq_iff_eq.mpr hp⟩, rfl⟩
      · cases h
  · cases h

/-- Settles O3: what each decoder reads spells the bytes it has read. -/
theorem encodeOfDecode : Obligations.EncodeOfDecode := by
  intro wire B i h
  cases wire with
  | true =>
    obtain ⟨⟨he, hw⟩, hp⟩ := spelledBy_of_decodeFrame h
    exact ⟨he, hw, hp⟩
  | false =>
    obtain ⟨he, hw⟩ := spelledBy_of_decodeDescriptor h
    exact ⟨he, hw, decodeDescriptor_not_onWire h⟩

/-! ### The legal descriptors (R131, R134, R135) -/

theorem legalDescriptor_decode (r : List Byte) :
    legalDescriptor (opcDecode :: r) = true ↔ 2 ≤ r.length ∧ r.length = 2 + (byteAt r 1).toNat := by
  have h : legalDescriptor (opcDecode :: r) = decide (3 ≤ r.length + 1 ∧ r.length + 1 = 3 + (byteAt r 1).toNat) := rfl
  rw [h, decide_eq_true_iff]
  omega

theorem legalDescriptor_cons {opc : Byte} (ho : opc ≠ opcDecode) (r : List Byte) :
    legalDescriptor (opc :: r) = true ↔ (opc, r.length + 1) ∈ descriptorSizes := by
  have h : legalDescriptor (opc :: r) = descriptorSizes.any fun p => decide (p.1 = opc ∧ p.2 = r.length + 1) := if_neg ho
  simp [h]

theorem legalDescriptor_of_formatF {opc : Byte} (ho : opc ≠ opcDecode) (hm : (opc, 18) ∈ descriptorSizes)
    (tag node kind : Byte) (ident : Word) (len pcount : Byte) {payload : List Byte} (h : payload.length = 8) :
    legalDescriptor (encodeFormatF opc tag node kind ident len pcount payload) = true := by
  simpa [encodeFormatF, legalDescriptor_cons ho, h] using hm

/-- What an instruction is spelled by on the command port is legal: its opcode is in the map, with the length it has there. -/
theorem legalDescriptor_encode {i : Instr} (hi : i.wellFormed = true) (hp : i.onWire = false) :
    legalDescriptor (encode i) = true := by
  cases i with
  | connect | disconnect | start | stop | status | subscribe | unsubscribe => rfl
  | encode tag node kind ident len pcount payload | send tag node kind ident len pcount payload
  | sendAcked tag node kind ident len pcount payload =>
    exact legalDescriptor_of_formatF (by decide) (by decide) tag node kind ident len pcount (eq_of_beq hi)
  | decode tag bytes =>
    have h : bytes.length < 256 := of_decide_eq_true hi
    exact (legalDescriptor_decode _).mpr ⟨by simp, by simp [byteAt]; omega⟩
  | checksum tag data =>
    have h : data.length = 21 := eq_of_beq hi
    exact (legalDescriptor_cons (by decide) _).mpr (by simp [descriptorSizes, h])
  | dataFrame | ackFrame => cases hp

theorem decodeFormatH_of_length (mk : Byte → Instr) {r : List Byte} (h : r.length = 1) : ∃ i, decodeFormatH mk r = .ok i := by
  match r, h with
  | [tag], _ => exact ⟨_, rfl⟩

theorem decodeFormatF_of_length (mk : Byte → Byte → Byte → Word → Byte → Byte → List Byte → Instr) {r : List Byte}
    (h : r.length = 17) : ∃ i, decodeFormatF mk r = .ok i := by
  match r, h with
  | _ :: _ :: _ :: _ :: _ :: _ :: _ :: _ :: _ :: payload, h => exact ⟨_, if_pos (by simpa using h)⟩

theorem decodeFormatS_of_length (mk : Byte → Word → Half → Half → Byte → Instr) {r : List Byte} (h : r.length = 10) :
    ∃ i, decodeFormatS mk r = .ok i := by
  match r, h with
  | [_, _, _, _, _, _, _, _, _, _], _ => exact ⟨_, rfl⟩

theorem decodeFormatC_of_length (mk : Byte → List Byte → Instr) {r : List Byte} (h : r.length = 22) :
    ∃ i, decodeFormatC mk r = .ok i := by
  match r, h with
  | _ :: data, h => exact ⟨_, if_pos (by simpa using h)⟩

/-- A format D descriptor is at least 3 bytes long, and BLEN says how much longer (R135). -/
theorem decodeFormatD_of_length (mk : Byte → List Byte → Instr) {r : List Byte} (h2 : 2 ≤ r.length)
    (h : r.length = 2 + (byteAt r 1).toNat) : ∃ i, decodeFormatD mk r = .ok i := by
  match r, h2, h with
  | _ :: blen :: bytes, _, h => exact ⟨_, if_pos (by simp [byteAt] at h; omega)⟩

theorem decodes_of_legalDescriptor {d : List Byte} (h : legalDescriptor d = true) : ∃ i, decodeDescriptor d = .ok i := by
  cases d with
  | nil => cases h
  | cons opc r =>
    by_cases ho : opc = opcDecode
    · subst ho
      obtain ⟨h2, hr⟩ := (legalDescriptor_decode r).mp h
      exact decodeFormatD_of_length .decode h2 hr
    · have hm := (legalDescriptor_cons ho r).mp h
      simp only [descriptorSizes, List.mem_cons, List.not_mem_nil, or_false, Prod.mk.injEq, Nat.reduceEqDiff] at hm
      obtain ⟨rfl, hr⟩ | ⟨rfl, hr⟩ | ⟨rfl, hr⟩ | ⟨rfl, hr⟩ | ⟨rfl, hr⟩ | ⟨rfl, hr⟩ | ⟨rfl, hr⟩ | ⟨rfl, hr⟩ | ⟨rfl, hr⟩ | ⟨rfl, hr⟩ |
        ⟨rfl, hr⟩ := hm
      iterate 5 exact decodeFormatH_of_length _ hr
      · exact decodeFormatF_of_length .encode hr
      · exact decodeFormatC_of_length .checksum hr
      · exact decodeFormatF_of_length .send hr
      · exact decodeFormatF_of_length .sendAcked hr
      · exact decodeFormatS_of_length .subscribe hr
      · exact decodeFormatS_of_length .unsubscribe hr

/-- Settles O4: a command's encoding is legal, and a legal length is one its opcode's format reads. -/
theorem descriptorDecodesIffLegal : Obligations.DescriptorDecodesIffLegal := by
  refine fun d => ⟨fun ⟨i, h⟩ => ?_, decodes_of_legalDescriptor⟩
  obtain ⟨rfl, hw⟩ := spelledBy_of_decodeDescriptor h
  exact legalDescriptor_encode hw (decodeDescriptor_not_onWire h)

/-! ### Illegal descriptors (R134, R135) -/

theorem decodeDescriptor_error_of_not_legal {d : List Byte} (h : legalDescriptor d = false) :
    ∃ e, decodeDescriptor d = .error e := by
  cases hd : decodeDescriptor d with
  | error e => exact ⟨e, rfl⟩
  | ok i => exact absurd ((descriptorDecodesIffLegal d).mp ⟨i, hd⟩) (by simp [h])

theorem acceptDescriptor_of_error {s : State} {d : List Byte} {e : DecodeError} (hc : s.cmdState = .idle)
    (hd : decodeDescriptor d = .error e) :
    acceptDescriptor d s = .next (raise (byteAt d 0) (byteAt d 1) .badCommand s) := by
  simp only [acceptDescriptor, hc, hd]

/-- In IDLE an error answer is the response and nothing else (R14). -/
theorem raise_of_idle {s : State} (hc : s.cmdState = .idle) (opc tag : Byte) (st : Status) :
    raise opc tag st s = { s with out := s.out ++ [.response [opc, tag, st.code]] } := by
  cases s
  subst hc
  rfl

/-- Settles O5: an illegal descriptor spells no command, and the answer leaves a command port that is IDLE as it is. -/
theorem badDescriptorAnswered : Obligations.BadDescriptorAnswered := by
  intro s d rest ha hc hl
  obtain ⟨e, he⟩ := decodeDescriptor_error_of_not_legal hl
  calc step s = acceptDescriptor d { s with agenda := rest } := step_of_agenda ha
    _ = .next (raise (byteAt d 0) (byteAt d 1) .badCommand { s with agenda := rest }) := acceptDescriptor_of_error hc he
    _ = _ := congrArg _ (raise_of_idle (s := { s with agenda := rest }) hc _ _ .badCommand)

/-- Settles O1: the five words are fixed, and the decoders evaluate on them. -/
theorem sampleWordsDecode : Obligations.SampleWordsDecode := ⟨rfl, rfl, rfl, rfl, rfl⟩

end Sys2Proof
end

section
/-!
The checksum (40_codec.md R200-R207). Both tables are linear because a round of either generator is, and no two entries of either
have the same low byte. The second fact alone gives R205 (c): an update can be undone, and the update after a changed byte cannot
take the change back.
-/

namespace Sys2Proof.Machine

/-! ### One update (R203) -/

/-- `T[i]` for a byte `i`. -/
def tableEntry (T : Vector Word 256) (i : Byte) : Word := T[i.toNat]'i.isLt

theorem crcIndex_eq (c : Word) (b : Byte) : crcIndex c b = c.extractLsb' 24 8 ^^^ b := by
  have hmask : (0xFF#32).setWidth 8 = BitVec.allOnes 8 := rfl
  have htop : (c >>> 24).setWidth 8 = c.extractLsb' 24 8 := rfl
  rw [crcIndex, BitVec.setWidth_and, hmask, BitVec.and_allOnes, BitVec.setWidth_xor, htop]
  simp

theorem crcUpdate_eq (T : Vector Word 256) (c : Word) (b : Byte) :
    crcUpdate T c b = c <<< 8 ^^^ tableEntry T (c.extractLsb' 24 8 ^^^ b) := by
  have hmask : (0xFFFFFFFF#32) = BitVec.allOnes 32 := rfl
  rw [crcUpdate, hmask, BitVec.and_allOnes, ← crcIndex_eq]
  rfl

/-- Settles O9: the accumulator goes through the bytes from the left, so the last byte is the last update. -/
theorem checksumUpdateRule : Obligations.ChecksumUpdateRule := by
  refine fun T B b => ⟨rfl, ?_⟩
  rw [crc32Ssb, List.foldl_append]
  exact crcUpdate_eq T _ b

/-! ### Linear tables (R205 (b)) -/

/-- `T[i ^ j] = T[i] ^ T[j]`. -/
def TableLinear (T : Vector Word 256) : Prop := ∀ i j, tableEntry T (i ^^^ j) = tableEntry T i ^^^ tableEntry T j

theorem TableLinear.entry_zero {T : Vector Word 256} (hT : TableLinear T) : tableEntry T 0 = 0 := by
  simpa using hT 0 0

theorem TableLinear.update_xor {T : Vector Word 256} (hT : TableLinear T) (c d : Word) (a b : Byte) :
    crcUpdate T (c ^^^ d) (a ^^^ b) = crcUpdate T c a ^^^ crcUpdate T d b := by
  have hi : (c ^^^ d).extractLsb' 24 8 ^^^ (a ^^^ b) = (c.extractLsb' 24 8 ^^^ a) ^^^ (d.extractLsb' 24 8 ^^^ b) := by
    rw [BitVec.extractLsb'_xor]
    ac_rfl
  rw [crcUpdate_eq, crcUpdate_eq, crcUpdate_eq, hi, hT, BitVec.shiftLeft_xor_distrib]
  ac_rfl

theorem TableLinear.foldl_xor {T : Vector Word 256} (hT : TableLinear T) {A B : List Byte} (h : A.length = B.length) (c d : Word) :
    (List.zipWith (· ^^^ ·) A B).foldl (crcUpdate T) (c ^^^ d) = A.foldl (crcUpdate T) c ^^^ B.foldl (crcUpdate T) d := by
  induction A generalizing B c d with
  | nil => rw [List.length_eq_zero_iff.mp h.symm]; rfl
  | cons a A ih =>
    cases B with
    | nil => cases h
    | cons b B =>
      rw [List.zipWith_cons_cons, List.foldl_cons, hT.update_xor]
      exact ih (Nat.succ.inj h) _ _

/-- Zero bytes leave the accumulator at 0 (R205 (a)). -/
theorem TableLinear.crc_zeros {T : Vector Word 256} (hT : TableLinear T) (n : Nat) : crc32Ssb T (List.replicate n 0) = 0 := by
  have hstep : crcUpdate T 0 0 = 0 := (crcUpdate_eq T 0 0).trans (by simpa using hT.entry_zero)
  induction n with
  | zero => rfl
  | succ n ih => exact (congrArg (List.foldl _ · _) hstep).trans ih

/-- A round that shifts and adds a constant if one bit is set is linear. -/
theorem round_xor {shift : Word → Word} (hs : ∀ x y, shift (x ^^^ y) = shift x ^^^ shift y) (k : Nat) (p x y : Word) :
    (if (x ^^^ y).getLsbD k then shift (x ^^^ y) ^^^ p else shift (x ^^^ y)) =
      (if x.getLsbD k then shift x ^^^ p else shift x) ^^^ (if y.getLsbD k then shift y ^^^ p else shift y) := by
  have hp : ∀ u v : Word, u ^^^ v = (u ^^^ p) ^^^ (v ^^^ p) := fun u v => by
    rw [show (u ^^^ p) ^^^ (v ^^^ p) = (u ^^^ v) ^^^ (p ^^^ p) by ac_rfl, BitVec.xor_self, BitVec.xor_zero]
  rw [BitVec.getLsbD_xor, hs]
  cases x.getLsbD k <;> cases y.getLsbD k
  · rfl
  · exact BitVec.xor_assoc ..
  · show (shift x ^^^ shift y) ^^^ p = (shift x ^^^ p) ^^^ shift y
    ac_rfl
  · exact hp _ _

theorem msbRound_xor (x y : Word) : msbRound (x ^^^ y) = msbRound x ^^^ msbRound y :=
  round_xor (shift := (· <<< 1)) (fun x y => BitVec.shiftLeft_xor_distrib x y 1) 31 _ x y

theorem reflRound_xor (x y : Word) : reflRound (x ^^^ y) = reflRound x ^^^ reflRound y :=
  round_xor (shift := (· >>> 1)) (fun x y => BitVec.ushiftRight_xor_distrib x y 1) 0 _ x y

theorem eightTimes_xor {f : Word → Word} (hf : ∀ x y, f (x ^^^ y) = f x ^^^ f y) (x y : Word) :
    eightTimes f (x ^^^ y) = eightTimes f x ^^^ eightTimes f y := by
  simp only [eightTimes, hf]

theorem tableEntry_tableOf (entry : Nat → Word) (i : Byte) : tableEntry (tableOf entry) i = entry i.toNat := by
  simp [tableEntry, tableOf]

theorem tableLinear_tMsb : TableLinear tMsb := by
  intro i j
  simp only [tMsb, tableEntry_tableOf, msbEntry, BitVec.ofNat_toNat, BitVec.setWidth_xor, BitVec.shiftLeft_xor_distrib,
    eightTimes_xor msbRound_xor]

theorem tableLinear_tRefl : TableLinear tRefl := by
  intro i j
  simp only [tRefl, tableEntry_tableOf, reflEntry, BitVec.ofNat_toNat, BitVec.setWidth_xor, eightTimes_xor reflRound_xor]

/-! ### Low bytes (R205 (c)) -/

/-- No two entries have the same low byte. -/
def LowBytesDistinct (T : Vector Word 256) : Prop :=
  ∀ i j, (tableEntry T i).setWidth 8 = (tableEntry T j).setWidth 8 → i = j

/-- In a linear table it is enough that only entry 0 has the low byte 0. -/
theorem TableLinear.lowBytesDistinct {T : Vector Word 256} (hT : TableLinear T)
    (h : ∀ i, (tableEntry T i).setWidth 8 = 0#8 → i = 0) : LowBytesDistinct T := by
  intro i j hij
  have hx : i ^^^ j = 0 := h _ (by rw [hT, BitVec.setWidth_xor, hij, BitVec.xor_self])
  exact BitVec.xor_eq_zero_iff.mp hx

theorem lowBytesDistinct_tMsb : LowBytesDistinct tMsb := by
  refine tableLinear_tMsb.lowBytesDistinct fun i => ?_
  have h : ∀ i : Byte, (msbEntry i.toNat).setWidth 8 = 0#8 → i = 0 := by decide +kernel
  rw [tMsb, tableEntry_tableOf]
  exact h i

theorem lowBytesDistinct_tRefl : LowBytesDistinct tRefl := by
  refine tableLinear_tRefl.lowBytesDistinct fun i => ?_
  have h : ∀ i : Byte, (reflEntry i.toNat).setWidth 8 = 0#8 → i = 0 := by decide +kernel
  rw [tRefl, tableEntry_tableOf]
  exact h i

/-- The low byte of the accumulator is that of the table entry: the shift clears it. -/
theorem setWidth_crcUpdate (T : Vector Word 256) (c : Word) (b : Byte) :
    (crcUpdate T c b).setWidth 8 = (tableEntry T (c.extractLsb' 24 8 ^^^ b)).setWidth 8 := by
  have hs : (c <<< 8).setWidth 8 = 0#8 := by
    apply BitVec.eq_of_toNat_eq
    simp
  rw [crcUpdate_eq, BitVec.setWidth_xor, hs, BitVec.zero_xor]

/-- The shift loses the high byte only. -/
theorem word_eq_of_extract_of_shift {c d : Word} (hx : c.extractLsb' 24 8 = d.extractLsb' 24 8) (hs : c <<< 8 = d <<< 8) :
    c = d := by
  have hc := c.isLt
  have hd := d.isLt
  simp only [← BitVec.toNat_inj, BitVec.extractLsb'_toNat, BitVec.toNat_shiftLeft, Nat.shiftRight_eq_div_pow,
    Nat.shiftLeft_eq] at hx hs ⊢
  omega

theorem setWidth_eq_of_shift {c d : Word} (h : c <<< 8 = d <<< 8) : c.setWidth 8 = d.setWidth 8 := by
  simp only [← BitVec.toNat_inj, BitVec.toNat_shiftLeft, Nat.shiftLeft_eq, BitVec.toNat_setWidth] at h ⊢
  omega

theorem eq_of_byteAt {A B : List Byte} (h : A.length = B.length) (hb : ∀ j, byteAt A j = byteAt B j) : A = B :=
  List.ext_getElem h fun j hA hB => by simpa [byteAt, hA, hB] using hb j

section
variable {T : Vector Word 256} (hT : LowBytesDistinct T)
include hT

/-- Equal results come from one table entry and one shifted accumulator. -/
theorem index_and_shift_of_crcUpdate_eq {c d : Word} {a b : Byte} (h : crcUpdate T c a = crcUpdate T d b) :
    c.extractLsb' 24 8 ^^^ a = d.extractLsb' 24 8 ^^^ b ∧ c <<< 8 = d <<< 8 := by
  have hi : c.extractLsb' 24 8 ^^^ a = d.extractLsb' 24 8 ^^^ b := by
    apply hT
    rw [← setWidth_crcUpdate, h, setWidth_crcUpdate]
  rw [crcUpdate_eq, crcUpdate_eq, hi] at h
  exact ⟨hi, (BitVec.xor_left_inj _).mp h⟩

theorem crcUpdate_left_injective {c d : Word} {b : Byte} (h : crcUpdate T c b = crcUpdate T d b) : c = d := by
  obtain ⟨hi, hs⟩ := index_and_shift_of_crcUpdate_eq hT h
  exact word_eq_of_extract_of_shift ((BitVec.xor_left_inj b).mp hi) hs

theorem crcUpdate_right_injective {c : Word} {a b : Byte} (h : crcUpdate T c a = crcUpdate T c b) : a = b :=
  (BitVec.xor_right_inj _).mp (index_and_shift_of_crcUpdate_eq hT h).1

/-- The byte after a changed one cannot take the change back: the shift keeps the low byte of the first update. -/
theorem crcUpdate_twice_injective {c : Word} {a a' b b' : Byte}
    (h : crcUpdate T (crcUpdate T c a) b = crcUpdate T (crcUpdate T c a') b') : a = a' ∧ b = b' := by
  obtain ⟨-, hs⟩ := index_and_shift_of_crcUpdate_eq hT h
  have hlow := setWidth_eq_of_shift hs
  rw [setWidth_crcUpdate, setWidth_crcUpdate] at hlow
  obtain rfl : a = a' := (BitVec.xor_right_inj _).mp (hT _ _ hlow)
  exact ⟨rfl, crcUpdate_right_injective hT h⟩

theorem foldl_crcUpdate_injective {B : List Byte} {c d : Word} (h : B.foldl (crcUpdate T) c = B.foldl (crcUpdate T) d) : c = d := by
  induction B generalizing c d with
  | nil => exact h
  | cons b B ih => exact crcUpdate_left_injective hT (ih h)

/-- Two strings of one length that differ only inside two adjacent bytes and lead to one accumulator are equal (R205 (c)). -/
theorem eq_of_foldl_crcUpdate {A B : List Byte} (hlen : A.length = B.length) {i : Nat} {c : Word}
    (hij : ∀ j, j ≠ i → j ≠ i + 1 → byteAt A j = byteAt B j) (h : A.foldl (crcUpdate T) c = B.foldl (crcUpdate T) c) : A = B := by
  induction A generalizing B i c with
  | nil => exact (List.length_eq_zero_iff.mp hlen.symm).symm
  | cons a A ih =>
    cases B with
    | nil => cases hlen
    | cons b B =>
      have hAB : A.length = B.length := Nat.succ.inj hlen
      cases i with
      | succ i =>
        obtain rfl : a = b := hij 0 (by omega) (by omega)
        rw [ih hAB (i := i) (fun j h1 h2 => hij (j + 1) (by omega) (by omega)) h]
      | zero =>
        match A, B, hAB with
        | [], [], _ => rw [crcUpdate_right_injective hT h]
        | a' :: A, b' :: B, hAB =>
          obtain rfl : A = B := eq_of_byteAt (Nat.succ.inj hAB) fun j => hij (j + 2) (by omega) (by omega)
          simp only [List.foldl_cons] at h
          obtain ⟨rfl, rfl⟩ := crcUpdate_twice_injective hT (foldl_crcUpdate_injective hT h)
          rfl

end

theorem checksumTable {T : Vector Word 256} (h : T ∈ [tMsb, tRefl]) : TableLinear T ∧ LowBytesDistinct T := by
  obtain rfl | rfl : T = tMsb ∨ T = tRefl := by simpa using h
  · exact ⟨tableLinear_tMsb, lowBytesDistinct_tMsb⟩
  · exact ⟨tableLinear_tRefl, lowBytesDistinct_tRefl⟩

/-- Settles O10: (a) and (b) are the linearity of the table, (c) is that its low bytes are distinct. -/
theorem checksumProperties : Obligations.ChecksumProperties := by
  intro T h
  obtain ⟨hlin, hlow⟩ := checksumTable h
  refine ⟨hlin.entry_zero, hlin.crc_zeros 21, fun n B => ?_, hlin, fun A B hAB => hlin.foldl_xor hAB 0 0,
    fun A B i hA hB hne hij hAB => hne (eq_of_foldl_crcUpdate hlow (hA.trans hB.symm) hij hAB)⟩
  calc crc32Ssb T (List.replicate n 0 ++ B) = B.foldl (crcUpdate T) (crc32Ssb T (List.replicate n 0)) := List.foldl_append
    _ = crc32Ssb T B := by rw [hlin.crc_zeros]; rfl

/-- Settles O11: the response carries the checksum; the zero strings are case (a) of R205, and the example evaluates. -/
theorem checksumResult : Obligations.ChecksumResult :=
  ⟨fun _ _ _ => rfl, tableLinear_tMsb.crc_zeros 21, tableLinear_tRefl.crc_zeros 21, by decide +kernel, rfl⟩

end Sys2Proof.Machine
end

section
/-!
Encoding and decoding frames (40_codec.md R210-R225, R230, R235, R236). One lemma per check of `decode`, in the order of R221, and
the inversion of a decode that succeeds; the commands, the received chunks and the invariant on frames are read from these.
-/

namespace Sys2Proof.Machine

open Sys2Proof.Safety Sys2Proof.Claims

/-! ### The checks of `decode` (R220, R221) -/

@[simp] theorem slice_zero (B : List Byte) (n : Nat) : slice B 0 n = B.take n := rfl

/-- A marker of a wire frame (R122). -/
def MarkerOk (m : Half) : Prop := m = markerData ∨ m = markerAck

theorem decodeBytes_of_badLength (c : Config) {B : List Byte} (h : B.length ≠ 25) : decodeBytes c B = .error .badLength :=
  if_pos h

theorem decodeBytes_of_badMarker (c : Config) {B : List Byte} (h : B.length = 25) (hm : ¬ MarkerOk (le16 B 0)) :
    decodeBytes c B = .error .badMarker := by
  rw [decodeBytes, if_neg (not_not_intro h), if_pos (not_or.mp hm)]

/-- With the length and the marker right, the declared length and the checksum decide. -/
theorem decodeBytes_of_marker (c : Config) {B : List Byte} (h : B.length = 25) (hm : MarkerOk (le16 B 0)) :
    decodeBytes c B =
      if 8#8 < byteAt B 12 ∧ c.dlcPolicy = .reject then .error .badDlc
      else if le32 B 21 ≠ crc32Ssb c.crcTable (B.take 21) then .error .badChecksum
      else .ok (frameRecord B (clampDlc (byteAt B 12))) := by
  rw [decodeBytes, if_neg (not_not_intro h), if_neg (not_and_or.mpr (hm.imp not_not_intro not_not_intro))]
  rfl

/-- A length byte above 8 passes only under CLAMP (R224). -/
theorem not_dlcRejected_iff {c : Config} {len : Byte} :
    ¬ (8#8 < len ∧ c.dlcPolicy = .reject) ↔ len ≤ 8#8 ∨ c.dlcPolicy = .clamp := by
  rw [not_and_or, BitVec.not_lt]
  cases c.dlcPolicy <;> simp

theorem decodeBytes_of_badDlc {c : Config} {B : List Byte} (h : B.length = 25) (hm : MarkerOk (le16 B 0))
    (hl : 8#8 < byteAt B 12) (hp : c.dlcPolicy = .reject) : decodeBytes c B = .error .badDlc := by
  rw [decodeBytes_of_marker c h hm, if_pos ⟨hl, hp⟩]

theorem decodeBytes_of_badChecksum {c : Config} {B : List Byte} (h : B.length = 25) (hm : MarkerOk (le16 B 0))
    (hl : byteAt B 12 ≤ 8#8 ∨ c.dlcPolicy = .clamp) (hc : le32 B 21 ≠ crc32Ssb c.crcTable (B.take 21)) :
    decodeBytes c B = .error .badChecksum := by
  rw [decodeBytes_of_marker c h hm, if_neg (not_dlcRejected_iff.mpr hl), if_pos hc]

theorem decodeBytes_of_valid {c : Config} {B : List Byte} (h : B.length = 25) (hm : MarkerOk (le16 B 0))
    (hl : byteAt B 12 ≤ 8#8 ∨ c.dlcPolicy = .clamp) (hc : le32 B 21 = crc32Ssb c.crcTable (B.take 21)) :
    decodeBytes c B = .ok (frameRecord B (clampDlc (byteAt B 12))) := by
  rw [decodeBytes_of_marker c h hm, if_neg (not_dlcRejected_iff.mpr hl), if_neg (not_not_intro hc)]

/-- What decodes has passed the four checks, and the frame is its record. -/
theorem decodeBytes_ok {c : Config} {B : List Byte} {f : DecodedFrame} (h : decodeBytes c B = .ok f) :
    B.length = 25 ∧ MarkerOk (le16 B 0) ∧ (byteAt B 12 ≤ 8#8 ∨ c.dlcPolicy = .clamp) ∧
      le32 B 21 = crc32Ssb c.crcTable (B.take 21) ∧ f = frameRecord B (clampDlc (byteAt B 12)) := by
  have hlen : B.length = 25 := Decidable.byContradiction fun hn => by cases (decodeBytes_of_badLength c hn).symm.trans h
  have hm : MarkerOk (le16 B 0) := Classical.byContradiction fun hn => by cases (decodeBytes_of_badMarker c hlen hn).symm.trans h
  rw [decodeBytes_of_marker c hlen hm] at h
  split at h
  · cases h
  · split at h
    · cases h
    · exact ⟨hlen, hm, not_dlcRejected_iff.mp ‹_›, Decidable.not_not.mp ‹_›, (Except.ok.inj h).symm⟩

/-- Decoding a frame that was put together from its fields (R121, R220). -/
theorem decodeBytes_frameBytes (c : Config) {marker : Half} (hm : MarkerOk marker) (tick : Word) (node kind : Byte) (ident : Word)
    (len : Byte) {payload : List Byte} (h : payload.length = 8) (checksum : Word) :
    decodeBytes c (frameBytes marker tick node kind ident len payload checksum) =
      if 8#8 < len ∧ c.dlcPolicy = .reject then .error .badDlc
      else if checksum ≠ crc32Ssb c.crcTable (frameHead marker tick node kind ident len payload) then .error .badChecksum
      else .ok { marker := marker, tick := tick, node := node, kind := kind, identifier := ident, length := clampDlc len
                 payloadRaw := payload, checksum := checksum } := by
  obtain ⟨h0, h2, h6, h7, h8, h12, hp, hc, hh⟩ := frameBytes_fields marker tick node kind ident len h checksum
  rw [decodeBytes_of_marker c (by simp [h]) (h0.symm ▸ hm), frameRecord, h0, h2, h6, h7, h8, h12, hp, hc,
    ← slice_zero, hh]

/-! ### What `encode` builds (R210-R213) -/

theorem clampDlc_of_le {len : Byte} (h : len ≤ 8#8) : clampDlc len = len := if_pos h

theorem clampDlc_of_gt {len : Byte} (h : 8#8 < len) : clampDlc len = 8#8 := if_neg (BitVec.not_le.mpr h)

theorem frameArgsOk_iff {len pcount : Byte} : frameArgsOk len pcount = true ↔ argumentsOk len pcount := by
  simp [frameArgsOk, argumentsOk, BitVec.le_def, and_assoc]

/-- The payload field is the first PCOUNT bytes of PAYLOAD, then zeros (R212). -/
theorem payloadBytes_eq {pcount : Byte} {payload : List Byte} (h : payload.length = 8) (hp : pcount.toNat ≤ 8) :
    payloadBytes pcount payload = payload.take pcount.toNat ++ List.replicate (8 - pcount.toNat) 0 := by
  refine List.ext_getElem (by simp [h, hp]) fun i hi _ => ?_
  have hi : i < 8 := by simpa using hi
  by_cases hip : i < pcount.toNat
  · simp [payloadBytes, hip, h, hi, byteAt]
  · simp [payloadBytes, hip, h, hp, List.getElem_append]

theorem outboundFrame_eq_encodedFrame (c : Config) (node kind : Byte) (ident : Word) (len : Byte) {pcount : Byte}
    {payload : List Byte} (h : payload.length = 8) (hp : pcount.toNat ≤ 8) :
    outboundFrame c node kind ident len pcount payload = encodedFrame c node kind ident len pcount payload := by
  rw [outboundFrame, payloadBytes_eq h hp]
  rfl

/-- A decode of an outbound frame ends in OK, under both policies: its length byte is at most 8 (R235). -/
theorem decodeBytes_outboundFrame (c : Config) (node kind : Byte) (ident : Word) {len : Byte} (hl : len ≤ 8#8) (pcount : Byte)
    (payload : List Byte) :
    let P := payloadBytes pcount payload
    decodeBytes c (outboundFrame c node kind ident len pcount payload) =
      .ok { marker := markerData, tick := c.txTick, node := node, kind := kind, identifier := ident, length := len
            payloadRaw := P, checksum := crc32Ssb c.crcTable (frameHead markerData c.txTick node kind ident len P) } := by
  intro P
  rw [outboundFrame_eq, decodeBytes_frameBytes c (.inl rfl) _ _ _ _ _ (payloadBytes_length pcount payload),
    if_neg (not_dlcRejected_iff.mpr (.inl hl)), if_neg (not_not_intro rfl), clampDlc_of_le hl]

/-- Settles O13: the fields of the frame read back, its length byte passes both policies, and its checksum is the one computed. -/
theorem encodedFrameDecodes : Obligations.EncodedFrameDecodes := by
  intro c node kind ident len pcount payload h hl hp
  have hp8 : pcount ≤ 8#8 := BitVec.le_trans hp hl
  refine ⟨_, _, if_pos (frameArgsOk_iff.mpr ⟨hl, hp8, hp⟩), decodeBytes_outboundFrame c node kind ident hl pcount payload,
    rfl, rfl, rfl, rfl, rfl, rfl, ?_⟩
  have hlen : len.toNat - pcount.toNat ≤ 8 - pcount.toNat := Nat.sub_le_sub_right hl _
  calc (payloadBytes pcount payload).take len.toNat
      = (payload.take pcount.toNat ++ List.replicate (8 - pcount.toNat) 0).take len.toNat := by rw [payloadBytes_eq h hp8]
    _ = payload.take pcount.toNat ++ List.replicate (len.toNat - pcount.toNat) 0 := by
      have hp : pcount.toNat ≤ len.toNat := hp
      have hp8 : pcount.toNat ≤ 8 := hp8
      simp [List.take_append, List.take_take, h, hp, hp8, hlen]

/-! ### ENCODE and DECODE (R211-R213, R220-R224) -/

theorem respond_eq_responded (o g : Byte) (st : Status) (d : List Byte) (s : State) :
    respond o g st d s = responded s ([o, g, st.code] ++ d) := rfl

/-- Settles O12: the checks of the model are those of R211, and the frame it builds is the one written out. -/
theorem encodeResult : Obligations.EncodeResult := by
  intro s tag node kind ident len pcount payload h
  rw [exec, execEncode, encodeFrame]
  constructor
  · intro ha
    rw [if_neg (frameArgsOk_iff.not.mpr ha)]
    rfl
  · intro ha
    have ⟨_, hp8, _⟩ := ha
    rw [if_pos (frameArgsOk_iff.mpr ha), outboundFrame_eq_encodedFrame _ _ _ _ _ h hp8]
    exact congrArg _ (respond_eq_responded ..)

theorem exec_decode_of_error {s : State} {B : List Byte} {r : Reason} (tag : Byte) (h : decodeBytes s.cfg B = .error r) :
    exec (.decode tag B) s = .next (responded s [0x11, tag, 0x01, r.code]) := by
  rw [exec, execDecode, h]
  rfl

theorem exec_decode_of_ok {s : State} {B : List Byte} {f : DecodedFrame} (tag : Byte) (h : decodeBytes s.cfg B = .ok f) :
    exec (.decode tag B) s = .next (responded s ([0x11, tag, 0x00] ++ decodeRecord f)) := by
  rw [exec, execDecode, h]
  rfl

/-- Settles O14: one clause per check, and the response of an outcome is the same whichever string led to it. -/
theorem decodeResult : Obligations.DecodeResult := fun s tag _ =>
  ⟨fun h => exec_decode_of_error tag (decodeBytes_of_badLength s.cfg h),
    fun h hd ha => exec_decode_of_error tag (decodeBytes_of_badMarker s.cfg h (not_or_intro hd ha)),
    fun h hm hl hp => exec_decode_of_error tag (decodeBytes_of_badDlc h hm hl hp),
    fun h hm hl hc => exec_decode_of_error tag (decodeBytes_of_badChecksum h hm hl hc),
    fun h hm hl hc => exec_decode_of_ok tag (decodeBytes_of_valid h hm hl hc)⟩

/-- Settles O16: under CLAMP the length byte becomes 8, which is the length of the payload field. -/
theorem longLengthByte : Obligations.LongLengthByte := by
  refine fun c B h hm hl => ⟨decodeBytes_of_badDlc h hm hl, fun hp => decodeBytes_of_badChecksum h hm (.inr hp), fun hp hc =>
    ⟨_, decodeBytes_of_valid h hm (.inr hp) hc, clampDlc_of_gt hl, ?_, rfl⟩⟩
  have hlen : (slice B 13 21).length = 8 := by simp [slice, h]
  show (slice B 13 21).take (clampDlc (byteAt B 12)).toNat = slice B 13 21
  rw [clampDlc_of_gt hl]
  exact List.take_of_length_le hlen.le

/-! ### Tampered frames (R236) -/

theorem byteAt_take {B : List Byte} {n j : Nat} (h : j < n) : byteAt (B.take n) j = byteAt B j := by
  simp [byteAt, h]

theorem byteAt_take_of_le {B : List Byte} {n j : Nat} (h : n ≤ j) : byteAt (B.take n) j = 0 := by
  simp [byteAt, h]

/-- The checksum field and the last four bytes determine each other (R206). -/
theorem drop_eq_bytesLe32 {B : List Byte} (h : B.length = 25) : B.drop 21 = bytesLe32 (le32 B 21) := by
  conv_lhs => rw [← frameBytes_of_fields h, frameBytes, List.drop_left' (by simp [slice, h])]

theorem le32_drop (B : List Byte) (o : Nat) : le32 (B.drop o) 0 = le32 B o := by
  simp [le32, byteAt]

/-- Settles O17: with the first 21 bytes kept the checksum field must have changed, and with the field kept the checksum of the
changed bytes is another one (R205 (c)). -/
theorem tamperedFrameRejected : Obligations.TamperedFrameRejected := by
  refine fun c B' => ⟨decodeBytes_of_badLength c, fun h hd ha => decodeBytes_of_badMarker c h (not_or_intro hd ha), ?_⟩
  intro B f hB h' hne
  obtain ⟨h, hm, hl, hc, -⟩ := decodeBytes_ok hB
  constructor
  · intro htake
    have hb : ∀ j < 21, byteAt B' j = byteAt B j := fun j hj => by rw [← byteAt_take hj, htake, byteAt_take hj]
    have hm' : le16 B' 0 = le16 B 0 := by rw [le16, le16, hb 0 (by decide), hb 1 (by decide)]
    refine decodeBytes_of_badChecksum h' (hm' ▸ hm) (hb 12 (by decide) ▸ hl) fun hc' => hne ?_
    rw [← List.take_append_drop 21 B', ← List.take_append_drop 21 B, drop_eq_bytesLe32 h', drop_eq_bytesLe32 h, hc', hc, htake]
  · rintro hT hdrop ⟨i, hi⟩ hm' hl'
    have hT : c.crcTable ∈ [tMsb, tRefl] := by simpa using hT
    refine decodeBytes_of_badChecksum h' hm' (.inl hl') fun hc' => ?_
    have htake : B'.take 21 ≠ B.take 21 := fun ht => hne (by
      rw [← List.take_append_drop 21 B', ht, hdrop, List.take_append_drop])
    obtain ⟨-, -, -, -, -, htwo⟩ := checksumProperties c.crcTable hT
    refine htwo (B'.take 21) (B.take 21) i (by simp [h']) (by simp [h]) htake ?_ ?_
    · intro j h1 h2
      obtain hj | hj := Nat.lt_or_ge j 21
      · rw [byteAt_take hj, byteAt_take hj, hi j h1 h2]
      · rw [byteAt_take_of_le hj, byteAt_take_of_le hj]
    · rw [← hc, ← hc', ← le32_drop, hdrop, le32_drop]

/-! ### The response of DECODE (R229) -/

/-- The part of the result bytes before the texts, at offsets 3 to 28. -/
def recordHead (f : DecodedFrame) : List Byte :=
  [0x00#8] ++ bytesLe16 f.marker ++ bytesLe32 f.tick ++ [f.node, f.kind] ++ bytesLe32 f.identifier ++ [f.length]
    ++ f.payloadRaw ++ bytesLe32 f.checksum

theorem decodeRecord_eq (f : DecodedFrame) :
    decodeRecord f = recordHead f ++ countedText (DecodedFrame.identifierTxt f) ++ countedText (DecodedFrame.markerTxt f)
      ++ countedText (DecodedFrame.payloadTxt f) ++ countedText (DecodedFrame.checksumTxt f) := rfl

theorem recordHead_length {f : DecodedFrame} (h : f.payloadRaw.length = 8) : (recordHead f).length = 26 := by
  simp [recordHead, h]

/-- The fields read back from a response that begins with them. -/
theorem recordHead_fields (opc tag st : Byte) {f : DecodedFrame} (h : f.payloadRaw.length = 8) (texts : List Byte) :
    let R := [opc, tag, st] ++ recordHead f ++ texts
    byteAt R 3 = 0x00 ∧ le16 R 4 = f.marker ∧ le32 R 6 = f.tick ∧ byteAt R 10 = f.node ∧ byteAt R 11 = f.kind ∧
      le32 R 12 = f.identifier ∧ byteAt R 16 = f.length ∧ slice R 17 25 = f.payloadRaw ∧ le32 R 25 = f.checksum := by
  obtain ⟨marker, tick, node, kind, identifier, length, payloadRaw, checksum⟩ := f
  match payloadRaw, h with
  | [p0, p1, p2, p3, p4, p5, p6, p7], _ => simp [recordHead, bytesLe16, bytesLe32, le16, le32, byteAt, slice]

@[simp] theorem countedText_length (t : List Byte) : (countedText t).length = t.length + 1 := rfl

/-- A counted text at offset `n`: its length byte, the text, and the offset at which what follows it begins. -/
theorem countedText_at {R A t C : List Byte} {n a b : Nat} (hR : R = A ++ (countedText t ++ C)) (hA : A.length = n)
    (ha : a = n + 1) (hb : b = a + t.length) :
    byteAt R n = BitVec.ofNat 8 t.length ∧ slice R a b = t ∧ R = (A ++ countedText t) ++ C ∧ (A ++ countedText t).length = b := by
  subst hR hA ha hb
  refine ⟨(byteAt_append_add A (countedText t ++ C) 0).trans rfl, ?_, (List.append_assoc ..).symm, by simp; omega⟩
  rw [Nat.add_assoc, slice_append_add]
  simp [slice, countedText]

theorem renderHex_length (v : Nat) : 3 ≤ (renderHex v).length ∧ (renderHex v).length ≤ 10 := by
  have hle : (renderedDigits v).length ≤ 8 := (dropLeadingZeros_suffix _).length_le.trans (by simp [hexDigits])
  have hpos : 0 < (renderedDigits v).length := List.length_pos_iff.mpr (dropLeadingZeros_ne_nil (by simp [hexDigits]))
  simp only [renderHex_eq, List.length_append, List.length_map, List.length_cons, List.length_nil]
  omega

theorem markerTxt_length {f : DecodedFrame} (h : MarkerOk f.marker) : (DecodedFrame.markerTxt f).length = 6 := by
  rw [DecodedFrame.markerTxt]
  obtain h | h := h <;> (rw [h]; decide)

theorem payload_length {f : DecodedFrame} (h : FrameOk f) : (DecodedFrame.payload f).length = f.length.toNat := by
  obtain ⟨-, hl, hp⟩ := h
  exact List.length_take_of_le (hp ▸ hl)

theorem slice_eq_take_slice (R : List Byte) {a n b : Nat} (h : a + n ≤ b) : slice R a (a + n) = (slice R a b).take n := by
  rw [slice, slice, List.take_take, Nat.add_sub_cancel_left, Nat.min_eq_left (by omega)]

/-- Settles O15: the fields stand at fixed offsets, and each counted text where the ones before it end. -/
theorem decodeRecordLayout : Obligations.DecodeRecordLayout := by
  intro tag f hf R n1 n3
  have ⟨hm, hl, hp⟩ := hf
  have hl : f.length.toNat ≤ 8 := hl
  have hR : R = [0x11, tag, 0x00] ++ recordHead f ++ (countedText (DecodedFrame.identifierTxt f)
      ++ (countedText (DecodedFrame.markerTxt f) ++ (countedText (DecodedFrame.payloadTxt f)
      ++ (countedText (DecodedFrame.checksumTxt f) ++ [])))) := by
    simp [R, decodeRecord_eq, responseBytes, Status.code]
  obtain ⟨h3, h4, h6, h10, h11, h12, h16, h17, h25⟩ := hR ▸ recordHead_fields 0x11 tag 0x00 hp _
  have hhead : ([0x11, tag, 0x00] ++ recordHead f).length = 29 := by simp [recordHead_length hp]
  obtain ⟨h3le, hle10⟩ : 3 ≤ n1 ∧ n1 ≤ 10 := renderHex_length _
  have hn2 : (DecodedFrame.markerTxt f).length = 6 := markerTxt_length hm
  have hn3 : n3 = 3 * f.length.toNat - 1 := (renderPayload_length _).trans (by rw [payload_length hf])
  have hn4 : (DecodedFrame.checksumTxt f).length = 8 := renderChecksum_length _
  obtain ⟨hid0, hid, hR, hoff⟩ := countedText_at hR hhead (a := 30) (b := 30 + n1) rfl rfl
  obtain ⟨hmarker0, hmarker, hR, hoff⟩ := countedText_at hR hoff (a := 31 + n1) (b := 37 + n1) (by omega) (by omega)
  obtain ⟨hpayload0, hpayload, hR, hoff⟩ := countedText_at hR hoff (a := 38 + n1) (b := 38 + n1 + n3) (by omega) rfl
  obtain ⟨hsum0, hsum, hR, hoff⟩ := countedText_at hR hoff (a := 39 + n1 + n3) (b := 47 + n1 + n3) (by omega) (by omega)
  have hend : R.length = 47 + n1 + n3 := by rw [hR, List.append_nil, hoff]
  have hn1 : (byteAt R 29).toNat = n1 := by
    rw [hid0, BitVec.toNat_ofNat]
    exact Nat.mod_eq_of_lt (by omega)
  have hn3' : (byteAt R (37 + n1)).toNat = n3 := by
    rw [hpayload0, BitVec.toNat_ofNat]
    exact Nat.mod_eq_of_lt (by omega)
  rw [hn2] at hmarker0
  rw [hn4] at hsum0
  have hfield : slice R 17 (17 + f.length.toNat) = DecodedFrame.payload f := by
    rw [slice_eq_take_slice R (b := 25) (by omega), h17, DecodedFrame.payload]
  exact ⟨rfl, hfield, h3, h4, h6, h10, h11, h12, h16, h17, h25, hn1, h3le, hle10, hid, hmarker0, hmarker, hn3', hn3, hpayload,
    hsum0, hsum, hend⟩

/-! ### Received chunks (R230, R266) -/

theorem receiveChunk_of_ok {B : List Byte} {s : State} {f : DecodedFrame} (h : decodeBytes s.cfg B = .ok f) :
    receiveChunk B s = { s with batch := s.batch ++ [f] } := by
  rw [receiveChunk, h]

theorem receiveChunk_of_error {B : List Byte} {s : State} {r : Reason} (h : decodeBytes s.cfg B = .error r) :
    receiveChunk B s = s := by
  rw [receiveChunk, h]

/-- The chunk of a frame (R220, R224, R230): it joins the batch with its own length or, under CLAMP, with length 8, or it leaves no
trace. -/
theorem receiveChunk_frameBytes (s : State) {marker : Half} (hm : MarkerOk marker) (tick : Word) (node kind : Byte) (ident : Word)
    (len : Byte) {payload : List Byte} (h : payload.length = 8) (checksum : Word) :
    let head := frameHead marker tick node kind ident len payload
    let r : Result := .next (receiveChunk (frameBytes marker tick node kind ident len payload checksum) s)
    (checksum = crc32Ssb s.cfg.crcTable head → len ≤ 8#8 →
      r = .next { s with batch := s.batch ++
        [{ marker := marker, tick := tick, node := node, kind := kind, identifier := ident, length := len
           payloadRaw := payload, checksum := checksum }] }) ∧
    (checksum ≠ crc32Ssb s.cfg.crcTable head ∨ 8#8 < len ∧ s.cfg.dlcPolicy = .reject → r = .next s) ∧
    (checksum = crc32Ssb s.cfg.crcTable head → 8#8 < len → s.cfg.dlcPolicy = .clamp →
      r = .next { s with batch := s.batch ++
        [{ marker := marker, tick := tick, node := node, kind := kind, identifier := ident, length := 8
           payloadRaw := payload, checksum := checksum }] }) := by
  intro head r
  have hd := decodeBytes_frameBytes s.cfg hm tick node kind ident len h checksum
  refine ⟨fun hc hl => ?_, fun hbad => ?_, fun hc hl hp => ?_⟩
  · rw [if_neg (not_dlcRejected_iff.mpr (.inl hl)), if_neg (not_not_intro hc), clampDlc_of_le hl] at hd
    exact congrArg _ (receiveChunk_of_ok hd)
  · split at hd
    · exact congrArg _ (receiveChunk_of_error hd)
    · rw [if_pos (hbad.resolve_right ‹_›)] at hd
      exact congrArg _ (receiveChunk_of_error hd)
  · rw [if_neg (not_dlcRejected_iff.mpr (.inr hp)), if_neg (not_not_intro hc), clampDlc_of_gt hl] at hd
    exact congrArg _ (receiveChunk_of_ok hd)

/-- Settles O20: DATA_FRAME is the receipt of its chunk. -/
theorem dataFrameResult : Obligations.DataFrameResult := fun s tick node kind ident len _ checksum h =>
  receiveChunk_frameBytes s (.inl rfl) tick node kind ident len h checksum

/-- Settles O21: ACK_FRAME is the receipt of its chunk. -/
theorem ackFrameResult : Obligations.AckFrameResult := fun s tick node kind ident len _ checksum h =>
  receiveChunk_frameBytes s (.inr rfl) tick node kind ident len h checksum

/-! ### Only valid frames are batched and dispatched (R222, R230, R303) -/

/-- The length of a decoded frame, against its length byte (R224). -/
theorem clampDlc_cases {c : Config} {len : Byte} (h : len ≤ 8#8 ∨ c.dlcPolicy = .clamp) :
    len ≤ maxDlc ∧ clampDlc len = len ∨ maxDlc < len ∧ clampDlc len = maxDlc ∧ c.dlcPolicy = .clamp := by
  by_cases hl : len ≤ 8#8
  · exact .inl ⟨hl, clampDlc_of_le hl⟩
  · have hg : 8#8 < len := BitVec.not_le.mp hl
    exact .inr ⟨hg, clampDlc_of_gt hg, h.resolve_left hl⟩

theorem clampDlc_le (len : Byte) : clampDlc len ≤ 8#8 := by
  unfold clampDlc
  split
  · assumption
  · exact BitVec.le_refl _

/-- The first 21 bytes of a frame are put together from the fields of its record (R121, R222). -/
theorem take_eq_frameHead {B : List Byte} (h : B.length = 25) :
    B.take 21 = frameHead (le16 B 0) (le32 B 2) (byteAt B 6) (byteAt B 7) (le32 B 8) (byteAt B 12) (slice B 13 21) := by
  conv_lhs => rw [← frameBytes_of_fields h, frameBytes, List.take_left' (by simp [slice, h])]

/-- What decodes is a valid frame (R220, R222). -/
theorem frameValid_of_decodeBytes {c : Config} {B : List Byte} {f : DecodedFrame} (h : decodeBytes c B = .ok f) : FrameValid c f := by
  obtain ⟨hlen, hm, hl, hc, rfl⟩ := decodeBytes_ok h
  refine ⟨⟨hm, clampDlc_le _, ?_⟩, byteAt B 12, clampDlc_cases hl, ?_⟩
  · show (slice B 13 21).length = 8
    simp [slice, hlen]
  · rw [take_eq_frameHead hlen] at hc
    exact hc

theorem frameValid_of_mem_transferFrames {c : Config} {T : List Byte} {f : DecodedFrame} (h : f ∈ transferFrames c T) :
    FrameValid c f := by
  obtain ⟨n, -, hn⟩ := List.mem_filterMap.mp h
  cases hd : decodeBytes c (slice T (25 * n) (25 * n + 25)) with
  | error r => simp [hd, Except.toOption] at hn
  | ok f' =>
    obtain rfl : f' = f := by simpa [hd, Except.toOption] using hn
    exact frameValid_of_decodeBytes hd

/-- Frames stay valid when the batch gains none and the one dispatched was dispatched or batched before. -/
theorem frameInv_of_frames {s t : State} (hi : FrameInv s) (hcfg : t.cfg = s.cfg) (hb : ∀ f ∈ t.batch, f ∈ s.batch)
    (hd : ∀ f, dispatchedFrame t.dispState = some f → dispatchedFrame s.dispState = some f ∨ f ∈ s.batch) : FrameInv t := by
  obtain ⟨hbatch, hdisp⟩ := hi
  rw [FrameInv, hcfg]
  exact ⟨fun f hf => hbatch f (hb f hf), fun f hf => (hd f hf).elim (hdisp f) (hbatch f)⟩

/-- The dispatch of a frame goes on or ends (R313-R315). -/
theorem frameInv_of_dispatch {s t : State} {d : DispState} {f : DecodedFrame} (hi : FrameInv s) (hs : s.dispState = d)
    (hf : dispatchedFrame d = some f) (hcfg : t.cfg = s.cfg) (hb : t.batch = s.batch)
    (hd : ∀ f', dispatchedFrame t.dispState = some f' → f = f') : FrameInv t :=
  frameInv_of_frames hi hcfg (fun _ h => hb ▸ h) fun f' h => .inl (by rw [hs, hf, hd f' h])

theorem dispatchedFrame_awaitAll {f f' : DecodedFrame} {w : List Handle} {s : State}
    (h : dispatchedFrame (awaitAll f w s).dispState = some f') : f = f' := by
  rw [awaitAll_dispState] at h
  split at h
  · cases h
  · exact Option.some.inj h

theorem MoveShape.keeps_frames {s t : State} {m : Move} (h : MoveShape s m t) (hi : FrameInv s) : FrameInv t := by
  cases h with
  | executes _ _ _ _ hd hx =>
    exact frameInv_of_frames hi hx.cfg_eq (fun _ h => hx.batch_eq (decodeDescriptor_not_onWire hd) ▸ h)
      fun f hf => .inl (hx.dispState_eq ▸ hf)
  | connected ok => cases ok <;> exact hi
  | deframes T => exact ⟨fun f hf => frameValid_of_mem_transferFrames hf, hi.2⟩
  | captures f l k j g hd =>
    rw [capture_eq]
    exact frameInv_of_dispatch hi hd rfl rfl rfl fun _ => Option.some.inj
  | syncDone _ _ _ _ _ hd | delivers _ _ _ _ _ hd => exact frameInv_of_dispatch hi hd rfl rfl rfl fun _ => Option.some.inj
  | asyncDone _ _ _ hd | deliversAll _ _ _ hd =>
    exact frameInv_of_dispatch hi hd rfl rfl rfl fun _ => dispatchedFrame_awaitAll (s := s)
  | resets | discards => exact ⟨nofun, nofun⟩
  | drops f rest _ _ _ hb => exact frameInv_of_frames hi rfl (fun _ h => hb ▸ .tail f h) fun _ => .inl
  | starts f rest _ _ _ hb =>
    refine frameInv_of_frames hi rfl (fun _ h => hb ▸ .tail f h) fun f' hf' => .inr ?_
    obtain rfl := Option.some.inj hf'
    exact hb ▸ .head rest
  | _ => exact hi

/-- Settles O55: a frame enters the batch only through a decode, and a dispatch only from the batch. -/
theorem stepKeepsFramesValid : Obligations.StepKeepsFramesValid := by
  intro s t hi h
  obtain ⟨_, _, _, -, hm⟩ := step_shape h
  exact hm.keeps_frames hi

end Sys2Proof.Machine
end

section
/-!
Transport (41_transport.md): the order of reads and deliveries, the lifecycle commands, the write primitive and the read engine. The
first is read from the shapes of Laws/Step.lean; every other statement names the move of its step, so `step_of_agenda` turns the step into
that move, and a completion goes on only if it is that of the latest transaction (R408).
-/

namespace Sys2Proof.Machine

open Sys2Proof.Safety Sys2Proof.Claims

/-! ### Completions that are ignored (R408) -/

/-- A completion changes nothing unless it is of the latest transaction and that one is awaited (R408). -/
theorem ofLatest_ignored {n latest : Nat} {f : State → Result} {s : State} (h : n = latest → f s = .next s) :
    ofLatest n latest f s = .next s := by
  unfold ofLatest
  split
  · exact h ‹_›
  · rfl

/-! ### What a step adds to the log (R265, R269, R316) -/

/-- Neither a bulk IN read nor a delivery. -/
def OutEvent.isQuiet : OutEvent → Bool
  | .usbRead _ _ | .deliver _ _ => false
  | _ => true

/-- `t` has the log of `s` with neither a read nor a delivery added. -/
def AddsQuietly (s t : State) : Prop := ∃ es, t.out = s.out ++ es ∧ ∀ e ∈ es, e.isQuiet = true

theorem addsQuietly_nil {s t : State} (h : t.out = s.out) : AddsQuietly s t := ⟨[], by simpa using h, nofun⟩

theorem addsQuietly_one {s t : State} {e : OutEvent} (h : t.out = s.out ++ [e]) (he : e.isQuiet = true) : AddsQuietly s t :=
  ⟨[e], h, fun _ h' => List.mem_singleton.mp h' ▸ he⟩

/-- From `s` to `t` one read is issued, by leaving IDLE with the loop running and no stop request (R265). -/
def IssuesRead (s t : State) : Prop :=
  t.out = s.out ++ [.usbRead 500 s.cfg.rxReadTimeoutMs] ∧ s.rdState = .idle ∧ s.running = true ∧ s.stopReq = false ∧
    t.rdState = .readPending

/-- From `s` to `t` the frame being dispatched is delivered to handles `hs` of its snapshot (R313, R314). -/
def Delivers (s t : State) : Prop :=
  ∃ f l k, ∃ hs : List Handle, s.dispState = .sync f l k false ∧ t.out = s.out ++ hs.map (.deliver · f) ∧
    ∀ h ∈ hs, h ∈ l.map Entry.lid

/-- An instruction responds, or asks something of the USB layer that is no read. -/
theorem ExecShape.addsQuietly {s t : State} {i : Instr} (h : ExecShape s i t) : AddsQuietly s t := by
  cases h with
  | asksStop => exact addsQuietly_nil rfl
  | receives =>
    rw [receiveChunk_eq]
    exact addsQuietly_nil rfl
  | _ => exact addsQuietly_one rfl rfl

/-- Reads come from the issue step alone, and deliveries from the two phases of a dispatch. -/
theorem MoveShape.log_cases {s t : State} {m : Move} (h : MoveShape s m t) :
    AddsQuietly s t ∨ IssuesRead s t ∨ Delivers s t := by
  cases h with
  | executes _ _ _ _ _ hx => exact .inl hx.addsQuietly
  | connected ok => cases ok <;> exact .inl (addsQuietly_one rfl rfl)
  | issues hr hs hi => exact .inr (.inl ⟨rfl, hi, hr, hs, rfl⟩)
  | delivers f l k j lid hd hj =>
    have hmem : { lid := .ext lid, mode := .sync } ∈ l := List.mem_of_getElem? (nextSync_some hj).2.1
    refine .inr (.inr ⟨f, l, k, [.ext lid], hd, rfl, fun h hh => ?_⟩)
    exact List.mem_singleton.mp hh ▸ List.mem_map.mpr ⟨_, hmem, rfl⟩
  | deliversAll f l k hd =>
    exact .inr (.inr ⟨f, l, k, asyncHandles l, hd, rfl, (List.filter_sublist.map _).subset⟩)
  | captures => exact .inl (addsQuietly_nil (capture_out ..))
  | rejects | resolves | expires | cancels | disconnects | answers => exact .inl (addsQuietly_one rfl rfl)
  | _ => exact .inl (addsQuietly_nil rfl)

/-- Settles O41: a step adds one read from IDLE, or deliveries of the dispatched frame to its snapshot, or neither. -/
theorem readsAndDeliveriesAreInTurn : Obligations.ReadsAndDeliveriesAreInTurn := by
  intro s t h
  obtain ⟨_, _, _, -, hm⟩ := step_shape h
  obtain ⟨es, hout, hq⟩ | ⟨hout, hread⟩ | ⟨f, l, k, hs, hd, hout, hmem⟩ := hm.log_cases
  · have hnot : ∀ e, e.isQuiet = false → e ∉ es := fun e he hmem => Bool.false_ne_true (he ▸ hq e hmem)
    exact ⟨es, hout, fun _ _ he => absurd he (hnot _ rfl), fun _ _ he => absurd he (hnot _ rfl)⟩
  · exact ⟨_, hout, fun _ _ _ => hread, fun _ _ he => by simp at he⟩
  · refine ⟨_, hout, fun _ _ he => by simp at he, fun h' f' he => ?_⟩
    obtain ⟨h, hh, heq⟩ := List.mem_map.mp he
    obtain ⟨rfl, rfl⟩ := OutEvent.deliver.inj heq
    exact ⟨l, k, hd, hmem h hh⟩

/-! ### The lifecycle commands (R260-R264) -/

theorem linkUp_iff {s : State} : linkUp s = true ↔ s.connected = true ∧ s.devPresent = true := by
  simp [linkUp]

/-- The command engine goes on with the command whose descriptor it has kept (R43, R99). -/
theorem resumeCommand_of_exec {s : State} {d : List Byte} {i : Instr} (hc : s.cmdState = .exec d)
    (hd : decodeDescriptor d = .ok i) : resumeCommand s = resumeInstr i s := by
  rw [resumeCommand, hc]
  dsimp only
  rw [hd]

theorem step_of_resume {s : State} {d : List Byte} {i : Instr} {rest : List Move} (hc : s.cmdState = .exec d)
    (hd : decodeDescriptor d = .ok i) (h : s.agenda = .resume :: rest) :
    step s = .next (resumeInstr i { s with agenda := rest }) := by
  rw [step_of_agenda h, perform, resumeCommand_of_exec (s := { s with agenda := rest }) hc hd]

/-- The answer to the CONNECT in progress (R260); an OK without the device is no answer. -/
theorem takeOpenAnswer_of_connect {s : State} {d : List Byte} {tag : Byte} (hc : s.cmdState = .exec d)
    (hd : decodeDescriptor d = .ok (.connect tag)) (ok : Bool) :
    takeOpenAnswer ok s = if ok && !s.devPresent then s else finishConnect tag ok s := by
  rw [takeOpenAnswer, awaitingOpen_some.mpr ⟨d, hc, hd⟩]

/-- Settles O22: the number is that of the latest `usb_open`, so the answer goes to the CONNECT in progress. -/
theorem connectResult : Obligations.ConnectResult := by
  refine ⟨fun _ _ => rfl, ?_⟩
  intro s tag d rest hc hd n
  have hanswer : ∀ ok, s.agenda = .usbOpened n ok :: rest →
      step s = .next (if ok && !s.devPresent then { s with agenda := rest }
        else finishConnect tag ok { s with agenda := rest }) := fun ok h => by
    rw [step_of_agenda h, perform, ofLatest_of_eq, takeOpenAnswer_of_connect (s := { s with agenda := rest }) hc hd]
  refine ⟨fun h hp => ?_, fun h hp => ?_, fun h => ?_⟩
  · rw [hanswer true h, hp]
    rfl
  · rw [hanswer true h, hp]
    rfl
  · rw [hanswer false h]
    rfl

/-- STOP and DISCONNECT are one procedure but for the opcode they answer with (R261, R263): without a loop they disconnect at once;
with one they ask it to end, and disconnect in a later step in which it has ended. -/
theorem stopProcedure_result {i : Byte → Instr} {opc : Byte} (hexec : ∀ tag s, exec (i tag) s = .next (stopProcedure opc tag s))
    (hresume : ∀ tag s, resumeInstr (i tag) s = if s.running then s else disconnectNow opc tag s) :
    (∀ (s : State) (tag : Byte),
      (s.running = false → exec (i tag) s = .next (responded { s with connected := false } [opc, tag, 0x00])) ∧
      (s.running = true → exec (i tag) s = .next { s with stopReq := true })) ∧
    ∀ (s : State) (tag : Byte) (d : List Byte) (rest : List Move),
      s.cmdState = .exec d → decodeDescriptor d = .ok (i tag) → s.agenda = .resume :: rest →
      (s.running = false → step s = .next (responded { s with agenda := rest, connected := false } [opc, tag, 0x00])) ∧
      (s.running = true → step s = .next { s with agenda := rest }) := by
  constructor
  · intro s tag
    rw [hexec, stopProcedure]
    exact ⟨fun hr => congrArg _ (if_neg (Bool.eq_false_iff.mp hr)), fun hr => congrArg _ (if_pos hr)⟩
  · intro s tag d rest hc hd h
    rw [step_of_resume hc hd h, hresume]
    exact ⟨fun hr => congrArg _ (if_neg (Bool.eq_false_iff.mp hr)), fun hr => congrArg _ (if_pos hr)⟩

/-- Settles O23: DISCONNECT is the STOP procedure. -/
theorem disconnectResult : Obligations.DisconnectResult := stopProcedure_result (fun _ _ => rfl) (fun _ _ => rfl)

/-- Settles O25: STOP is the STOP procedure. -/
theorem stopResult : Obligations.StopResult := stopProcedure_result (fun _ _ => rfl) (fun _ _ => rfl)

/-- START leaves the batch alone (R262). -/
theorem exec_start_batch {s t : State} {tag : Byte} (h : exec (.start tag) s = .next t) : t.batch = s.batch :=
  (shape_of_exec h).batch_eq rfl

/-- Settles O24: the link, then the loop; a loop that is not running has left no batch behind. -/
theorem startResult : Obligations.StartResult := by
  intro s tag
  refine ⟨fun hl => ?_, fun hl hr => ?_, fun hl hr => ?_, fun hr hi t h => ?_⟩
  · rw [exec, execStart, if_neg (linkUp_iff.not.mpr hl)]
    rfl
  · rw [exec, execStart, if_pos (linkUp_iff.mpr hl), if_pos hr]
    rfl
  · rw [exec, execStart, if_pos (linkUp_iff.mpr hl), if_neg (by simp [hr])]
    rfl
  · obtain ⟨hidle, -⟩ := hi.1 hr
    exact (exec_start_batch h).trans (hi.2 (by simp [hidle])).1

/-- Four flags in the low bits of a byte read back, and leave the high bits zero (R58). -/
theorem flagBits_read (a b c d : Bool) :
    let v := flagBit a 0 ||| flagBit b 1 ||| flagBit c 2 ||| flagBit d 3
    v.getLsbD 0 = a ∧ v.getLsbD 1 = b ∧ v.getLsbD 2 = c ∧ v.getLsbD 3 = d ∧ v.extractLsb' 4 4 = 0#4 := by
  revert a b c d
  decide

/-- Settles O26: the result byte is the STATUS view, whose flags are those of R58. -/
theorem statusResult : Obligations.StatusResult := fun s _ =>
  ⟨statusView s, rfl, flagBits_read (linkUp s) s.running (corrBusy s) (dispatchBusy s)⟩

/-! ### The write primitive (R274-R276) -/

/-- The answer of SEND, by the count of bytes written (R274). -/
theorem finishSend_eq (tag : Byte) (w : Fin 26) (s : State) :
    finishSend tag w s = responded { s with outPort := .idle } [0x20, tag, if w.val = 25 then 0x00 else 0x03] := by
  unfold finishSend
  split
  · rfl
  · rfl

/-- Settles O27: the checks are those of R211 and R274 in order, and the OUT write carries the frame just stored. -/
theorem sendResult : Obligations.SendResult := by
  constructor
  · intro s tag node kind ident len pcount payload h F i
    have hF : argumentsOk len pcount → encodeFrame s.cfg node kind ident len pcount payload = some F := fun ha => by
      rw [encodeFrame, if_pos (frameArgsOk_iff.mpr ha), outboundFrame_eq_encodedFrame _ _ _ _ _ h ha.2.1]
    clear_value F
    refine ⟨fun ha => ?_, fun ha hl => ?_, fun ha hl => ?_⟩
    · rw [exec, execSend, encodeFrame, if_neg (frameArgsOk_iff.not.mpr ha)]
      rfl
    · rw [exec, execSend, hF ha]
      exact if_neg (linkUp_iff.not.mpr hl)
    · rw [exec, execSend, hF ha]
      dsimp only
      rw [if_pos (linkUp_iff.mpr hl), issueWrite_storeFrame F s (encodeFrame_some_length (hF ha))]
      rfl
  · intro s tag node kind ident len pcount payload d w rest hc hd hw h
    rw [step_of_resume hc hd h, resumeInstr, afterWrite, hw]
    exact congrArg _ (finishSend_eq ..)

theorem takeWriteDone_of_ne_busy {s : State} (h : s.outPort ≠ .busy) (w : Fin 26) : takeWriteDone w s = s := by
  unfold takeWriteDone
  split
  · exact absurd ‹_› h
  · rfl
  · rfl

/-- Settles O28: the completion of the outstanding write is taken whatever its count; `dev_present` is an input, and no state element
depends on it. -/
theorem writeCompletionAndDeviceChange : Obligations.WriteCompletionAndDeviceChange := by
  refine fun s rest => ⟨fun n w h => ?_, fun b h => step_of_agenda h⟩
  rw [step_of_agenda h, perform]
  constructor
  · rintro hb rfl
    rw [ofLatest_of_eq, takeWriteDone, hb]
  · intro hne
    refine ofLatest_ignored fun hn => congrArg _ ?_
    exact takeWriteDone_of_ne_busy (s := { s with agenda := rest }) (hne.resolve_right (not_not_intro hn)) w

/-! ### The read engine: issue, timeout, error and the end of the batch (R265, R267-R269) -/

/-- A poll leaves the read engine alone (R345). -/
theorem poll_rdState (s : State) : (poll s).rdState = s.rdState := by
  unfold poll
  split
  · split
    · rfl
    · split <;> rfl
  · rfl
  · rfl

/-- Settles O32: the three conditions of the issue step are its guard, and a strobe is a poll. -/
theorem readIssued : Obligations.ReadIssued := by
  refine ⟨fun s rest h => ?_, fun s rest h => ⟨_, step_of_agenda h, poll_rdState _⟩⟩
  rw [step_of_agenda h]
  constructor
  · intro hr hs hi
    exact congrArg _ (if_pos ⟨hr, hs, hi⟩)
  · intro hn
    refine congrArg _ (if_neg ?_)
    rintro ⟨hr, hs, hi⟩
    obtain h | h | h := hn
    · exact nomatch h.symm.trans hr
    · exact nomatch h.symm.trans hs
    · exact h hi

theorem takeTransfer_nil : takeTransfer [] = fun s => .next (abandonRead s) := funext fun _ => if_pos rfl

/-- A transfer of bytes is taken under the guard of R266, and is ignored otherwise. -/
theorem takeTransfer_of_ne_nil {T : List Byte} (hT : T ≠ []) (s : State) :
    takeTransfer T s =
      if s.rdState = .readPending ∧ s.stopReq = false ∧ T.length ≤ 500 then deframe T s else .next s := if_neg hT

/-- A timeout, an error and a transfer of no bytes are the same event (R267, R268). -/
theorem perform_empty_read {m : Move} {n : Nat} (hm : m = .readTimeout n ∨ m = .readError n ∨ m = .transfer n []) (s : State) :
    perform m s = ofLatest n (readsIssued s.out) (fun s => .next (abandonRead s)) s := by
  obtain rfl | rfl | rfl := hm
  · rfl
  · rfl
  · rw [perform, takeTransfer_nil]

/-- Settles O34: an empty read of the outstanding number ends it; each reason to ignore a completion is the failure of a guard. -/
theorem emptyReadRetries : Obligations.EmptyReadRetries := by
  constructor
  · intro s m n rest h hm
    rw [step_of_agenda h, perform_empty_read hm]
    constructor
    · rintro hr rfl
      exact (ofLatest_of_eq _ _ _).trans (congrArg _ (if_pos hr))
    · intro hne
      exact ofLatest_ignored fun hn => congrArg _ (if_neg (hne.resolve_right (not_not_intro hn)))
  · intro s n T rest h hT hne
    rw [step_of_agenda h]
    refine ofLatest_ignored fun hn => (takeTransfer_of_ne_nil hT _).trans (if_neg ?_)
    rintro ⟨hr, hs, hl⟩
    obtain h | h | h | h := hne
    · exact h hr
    · exact h hn
    · exact nomatch h.symm.trans hs
    · exact Nat.not_lt.mpr hl h

/-- Settles O35: in DISPATCHING the rest of the guard is an empty batch and an idle dispatch engine. -/
theorem batchEnds : Obligations.BatchEnds := by
  intro s rest h hr
  rw [step_of_agenda h]
  constructor
  · intro hb hd
    exact congrArg _ (if_pos ⟨hr, hb, hd⟩)
  · intro hne
    refine congrArg _ (if_neg ?_)
    rintro ⟨-, hb, hd⟩
    exact hne.elim (· hb) (· hd)

/-! ### The deframe step (R266) -/

/-- A step in which the outstanding read completes with bytes is the deframe step. -/
theorem step_of_transfer {s : State} {T : List Byte} {rest : List Move}
    (h : s.agenda = .transfer (readsIssued s.out) T :: rest) (hr : s.rdState = .readPending) (hs : s.stopReq = false)
    (hT : T ≠ []) (hl : T.length ≤ 500) :
    step s = .next (endDeframe { loadTransfer T { s with agenda := rest } with batch := transferFrames s.cfg T }) := by
  rw [step_of_agenda h]
  refine (ofLatest_of_eq _ _ _).trans ?_
  rw [takeTransfer_of_ne_nil hT, if_pos ⟨hr, hs, hl⟩, deframe_eq]
  rfl

/-- The frames of a transfer are those of the list of its chunks. -/
theorem transferFrames_eq_chunks (c : Config) (T : List Byte) :
    transferFrames c T =
      ((List.range ((T.length + 24) / 25)).map fun n => (T.drop (25 * n)).take 25).filterMap
        fun chunk => (decodeBytes c chunk).toOption := by
  simp [transferFrames, chunkCount, List.filterMap_map, slice]

/-- A transfer of one chunk gives that chunk's frame, if it is valid. -/
theorem transferFrames_of_length_25 (c : Config) {F : List Byte} (h : F.length = 25) :
    transferFrames c F = (decodeBytes c F).toOption.toList := by
  have hF : slice F 0 25 = F := List.take_of_length_le h.le
  have hchunks : List.range (chunkCount F.length) = [0] := by rw [h]; rfl
  rw [transferFrames, hchunks]
  cases hd : decodeBytes c F <;> simp [hF, hd, Except.toOption]

/-- Settles O33: `transferFrames` is the batch, and nothing but the five elements named is written. -/
theorem deframeIsSlicing : Obligations.DeframeIsSlicing := by
  intro s T rest h hr hs h1 hl chunks batch
  have hbatch : transferFrames s.cfg T = batch := transferFrames_eq_chunks s.cfg T
  rw [step_of_transfer h hr hs (List.ne_nil_of_length_pos h1) hl, hbatch]
  rfl

theorem length_of_decodeFrame {F : List Byte} {i : Instr} (h : decodeFrame F = .ok i) : F.length = 25 := by
  obtain ⟨hl, -⟩ | h := ok_of_ite h
  · exact hl
  · cases h

/-- A frame the decoder reads is received by running it (DESIGN CHOICE, assumption log 17). -/
theorem exec_of_decodeFrame {F : List Byte} {i : Instr} (h : decodeFrame F = .ok i) (s : State) :
    exec i s = .next (receiveChunk F s) := by
  rw [← receive_eq, receive, h]

/-- Settles O7: the transfer is one chunk, and what `exec` does with it is what the loop of the deframe step does. -/
theorem stepRunsFrame : Obligations.StepRunsFrame := by
  intro s F rest i h hr hs hF
  have hlen := length_of_decodeFrame hF
  rw [step_of_transfer h hr hs (List.ne_nil_of_length_pos (by omega)) (by omega), transferFrames_of_length_25 _ hlen,
    exec_of_decodeFrame hF, receiveChunk_eq, loadTransfer, hlen]
  rfl

/-! ### The stop step (R270) -/

theorem firstSync_eq_none_iff {l : List Entry} {i : Nat} : firstSync l i = none ↔ ∀ e ∈ l, e.mode = .async := by
  induction l generalizing i with
  | nil => simp [firstSync]
  | cons e l ih => cases he : e.mode <;> simp [firstSync, he, ih]

/-- No entry is found exactly if only asynchronous ones are left (R313). -/
theorem nextSync_eq_none_iff {l : List Entry} {k : Nat} : nextSync l k = none ↔ ∀ e ∈ l.drop k, e.mode = .async :=
  firstSync_eq_none_iff

/-- Settles O36: the rows are the cases of the stop step; a synchronous phase is at its end when no synchronous entry is left and none
is awaited. -/
theorem stopStepRows : Obligations.StopStepRows := by
  intro s rest h hs ended
  have hstep : step s = .next (stopLoop { s with agenda := rest }) := step_of_agenda h
  rw [hstep, stopLoop, if_pos hs]
  refine ⟨fun hr => ?_, fun hr => ?_, fun hr hd => ?_, fun f w hr hd => ?_, fun f l k hr hd hl => ?_, fun f l k b hr hd hw => ?_⟩
  · rw [hr]
    rfl
  · rw [hr]
    rfl
  · rw [hr, hd]
    rfl
  · rw [hr, hd]
    rfl
  · rw [hr, hd]
    exact congrArg _ (if_pos ⟨rfl, nextSync_eq_none_iff.mpr hl⟩)
  · rw [hr, hd]
    refine congrArg _ (if_neg ?_)
    rintro ⟨rfl, hn⟩
    obtain hw | ⟨e, he, hm⟩ := hw
    · cases hw
    · exact nomatch hm.symm.trans (nextSync_eq_none_iff.mp hn e he)

end Sys2Proof.Machine
end

section
/-!
The subscription table and the dispatch engine (42_dispatcher.md). SUBSCRIBE and UNSUBSCRIBE are told by their checks in order and then
by what the update does to the lookup of a key. A dispatch step and a listener's completion are told case by case from the state of the
engine and the synchronous entry that stands next; all statements about the engine but the last name the move of their step.
-/

namespace Sys2Proof.Machine

open Sys2Proof.Safety Sys2Proof.Claims

/-! ### The checks of SUBSCRIBE and UNSUBSCRIBE (R136, R300, R304) -/

theorem lidFits_iff {c : Config} {lid : Half} : lidFits c lid = true ↔ lid.toNat / 2 ^ c.listenerIdBits = 0 := by
  rw [lidFits, decide_eq_true_iff, Nat.shiftRight_eq_div_pow]

theorem modeFits_iff {mode : Byte} : modeFits mode = true ↔ mode.toNat / 2 = 0 := by
  have hlt : mode.toNat < 256 := mode.isLt
  have hbits : (mode.extractLsb' 1 7).toNat = mode.toNat / 2 := by
    rw [BitVec.extractLsb'_toNat, Nat.shiftRight_eq_div_pow]
    omega
  rw [modeFits, decide_eq_true_iff, ← BitVec.toNat_inj, hbits]
  rfl

/-- The two reserved-bit checks together (R136). -/
theorem operandsFit_iff {c : Config} {lid : Half} {mode : Byte} :
    (lidFits c lid && modeFits mode) = true ↔ ¬ (lid.toNat / 2 ^ c.listenerIdBits ≠ 0 ∨ mode.toNat / 2 ≠ 0) := by
  rw [Bool.and_eq_true, lidFits_iff, modeFits_iff, not_or, not_not, not_not]

theorem limitReached_iff {limit : Option Nat} {n : Nat} : limitReached limit n = true ↔ ∃ m, limit = some m ∧ m ≤ n := by
  cases limit <;> simp [limitReached]

theorem isExt_eq_external : Entry.isExt = external := by
  funext e
  obtain ⟨lid, mode⟩ := e
  cases lid <;> rfl

/-- A limit of R304 keeps a new entry of `k` out: on the keys that hold an external entry if `k` is absent, on the external entries
under `k` if it is present. -/
def CapacityFull (c : Config) (t : SubTable) (k : Key) : Prop :=
  (SubTable.find t k = none ∧ ∃ n, c.maxKeys = some n ∧ n ≤ (t.filter fun kl => kl.2.any external).length) ∨
  ∃ l n, SubTable.find t k = some l ∧ c.maxListeners = some n ∧ n ≤ (l.filter external).length

/-- The two capacity checks of SUBSCRIBE, of which one applies to each key (R300). -/
theorem capacityFull_iff {c : Config} {t : SubTable} {k : Key} :
    CapacityFull c t k ↔
      ((SubTable.find t k).isNone && limitReached c.maxKeys (extKeys t)) = true ∨
      ((SubTable.find t k).isSome && limitReached c.maxListeners (extCount (SubTable.listeners t k))) = true := by
  rw [extKeys, extCount, List.countP_eq_length_filter, List.countP_eq_length_filter, isExt_eq_external]
  cases hf : SubTable.find t k with
  | none => simp [CapacityFull, hf, limitReached_iff]
  | some l => simp [CapacityFull, hf, limitReached_iff, SubTable.listeners]

/-! ### The two commands (R300, R305) -/

section
variable {s : State} {k : Key} {lid : Half} {mode : Byte} (tag : Byte)

theorem exec_subscribe_of_reserved (hfit : (lidFits s.cfg lid && modeFits mode) = false) :
    exec (.subscribe tag k.identifier k.marker lid mode) s = .next (raise opcSubscribe tag .argError s) := by
  simp [exec, execSubscribe, hfit]

variable (hfit : (lidFits s.cfg lid && modeFits mode) = true)
  (hnew : ¬ ∃ e ∈ SubTable.listeners s.subs k, e.lid = .ext lid)
include hfit hnew

theorem exec_subscribe_of_full (hfull : CapacityFull s.cfg s.subs k) :
    exec (.subscribe tag k.identifier k.marker lid mode) s = .next (raise opcSubscribe tag .full s) := by
  have hany : (SubTable.listeners s.subs k).any (fun e => decide (e.lid = .ext lid)) = false := by simpa using hnew
  obtain hkeys | hlist := capacityFull_iff.mp hfull
  · simp [exec, execSubscribe, hfit, hany, hkeys]
  · simp [exec, execSubscribe, hfit, hany, hlist]

theorem exec_subscribe_of_room (hroom : ¬ CapacityFull s.cfg s.subs k) :
    exec (.subscribe tag k.identifier k.marker lid mode) s =
      .next (respond opcSubscribe tag .ok []
        { s with subs := SubTable.register s.subs k { lid := .ext lid, mode := listenModeOf mode } }) := by
  have hany : (SubTable.listeners s.subs k).any (fun e => decide (e.lid = .ext lid)) = false := by simpa using hnew
  obtain ⟨hkeys, hlist⟩ := not_or.mp (capacityFull_iff.not.mp hroom)
  simp [exec, execSubscribe, hfit, hany, hkeys, hlist]

end

/-- Settles O29: the guards are R300's checks in order, and registering appends the entry to its key's list alone. -/
theorem subscribeResult : Obligations.SubscribeResult := by
  intro s tag ident marker lid mode k i reserved duplicate keys full
  have hfit : ¬ reserved → (lidFits s.cfg lid && modeFits mode) = true := operandsFit_iff.mpr
  refine ⟨fun hr => ?_, fun hr hd => ?_, fun hr hd hf => ?_, fun hr hd hf => ?_⟩
  · exact exec_subscribe_of_reserved (k := k) tag (Bool.eq_false_iff.mpr fun h => operandsFit_iff.mp h hr)
  · exact exec_subscribe_of_listed (k := k) tag (hfit hr) hd
  · exact exec_subscribe_of_full (k := k) tag (hfit hr) hd hf
  · refine ⟨SubTable.register s.subs k { lid := .ext lid, mode := listenModeOf mode },
      exec_subscribe_of_room (k := k) tag (hfit hr) hd hf, ?_, fun k' hk' => ?_⟩
    · rw [SubTable.find_register, if_pos rfl, listenModeOf]
    · rw [SubTable.find_register, if_neg hk']

/-- What is left under the key a handle is removed from: the rest of its list in order, or no key (R305). -/
theorem SubTable.find_unregister_same {t : SubTable} (ht : tableOrdered Key.code t = true) (k : Key) (h : Handle) :
    SubTable.find (SubTable.unregister t k h) k =
      if (SubTable.listeners t k).filter (fun e => decide (e.lid ≠ h)) = [] then none
      else some ((SubTable.listeners t k).filter fun e => decide (e.lid ≠ h)) := by
  rw [SubTable.find_unregister ht, if_pos rfl, SubTable.listeners]
  cases SubTable.find t k with
  | none => rfl
  | some l =>
    rw [Option.bind_some, Option.getD_some]
    split
    · rename_i hl
      rw [if_pos hl]
    · rename_i e l' hl
      rw [if_neg (hl ▸ List.cons_ne_nil e l'), hl]

/-- Settles O30: the one check is that of the LID, and unregistering filters the key's list alone. -/
theorem unsubscribeResult : Obligations.UnsubscribeResult := by
  intro s tag ident marker lid mode ht k i rest
  refine ⟨fun hr => ?_, fun hr => ⟨SubTable.unregister s.subs k (.ext lid), ?_, ?_, fun k' hk' => ?_⟩⟩
  · exact if_neg (lidFits_iff.not.mpr hr)
  · exact if_pos (lidFits_iff.mpr hr)
  · exact SubTable.find_unregister_same ht.1 k (.ext lid)
  · rw [SubTable.find_unregister ht.1, if_neg hk']

/-! ### The dispatch engine's step (R310, R313, R314) -/

theorem step_of_dispatch {s : State} {rest : List Move} (h : s.agenda = .dispatch :: rest) :
    step s = .next (dispatchStep { s with agenda := rest }) := step_of_agenda h

theorem dispatchStep_of_idle {s : State} (hd : s.dispState = .idle) : dispatchStep s = startDispatch s := by
  rw [dispatchStep, hd]

theorem dispatchStep_of_nextSync {s : State} {f : DecodedFrame} {l : List Entry} {k j : Nat} {e : Entry}
    (hd : s.dispState = .sync f l k false) (hj : nextSync l k = some (j, e)) :
    dispatchStep s = deliverSync f l k j e.lid s := by
  rw [dispatchStep, hd]
  dsimp only
  rw [hj]

theorem dispatchStep_of_no_sync {s : State} {f : DecodedFrame} {l : List Entry} {k : Nat} (hd : s.dispState = .sync f l k false)
    (hn : nextSync l k = none) (hs : s.stopReq = false) : dispatchStep s = deliverAsync f l s := by
  rw [dispatchStep, hd]
  dsimp only
  rw [hn]
  exact if_neg (Bool.eq_false_iff.mp hs)

/-- With a frame in the batch and no stop request, the frame's own key is looked up (R310, R311, R312). -/
theorem startDispatch_of_cons {s : State} {f : DecodedFrame} {fs : List DecodedFrame} (hr : s.rdState = .dispatching)
    (hs : s.stopReq = false) (hb : s.batch = f :: fs) :
    startDispatch s =
      if SubTable.listeners s.subs (frameKey f) = [] then { s with batch := fs }
      else { s with batch := fs, dispState := .sync f (SubTable.listeners s.subs (frameKey f)) 0 false } := by
  rw [startDispatch, if_pos ⟨hr, hs⟩, hb]
  dsimp only
  split
  · rename_i hl
    rw [if_pos hl]
  · rename_i e l hl
    rw [if_neg (hl ▸ List.cons_ne_nil e l), hl]

/-- Settles O37: the engine is idle, so its step is the dispatch start, guarded by `stop_req` and split by the lookup. -/
theorem dispatchStarts : Obligations.DispatchStarts := by
  intro s f fs rest h hd hr hb
  have hstep : step s = .next (startDispatch { s with agenda := rest }) :=
    (step_of_dispatch h).trans (congrArg _ (dispatchStep_of_idle hd))
  rw [hstep]
  refine ⟨fun hs hl => ?_, fun hs hl => ?_, fun hs => ?_⟩
  · rw [startDispatch_of_cons (s := { s with agenda := rest }) hr hs hb]
    exact congrArg _ (if_pos hl)
  · rw [startDispatch_of_cons (s := { s with agenda := rest }) hr hs hb]
    exact congrArg _ (if_neg hl)
  · refine congrArg _ (if_neg ?_)
    rintro ⟨-, hgo⟩
    exact nomatch hs.symm.trans hgo

/-- Settles O39: with no synchronous entry left the step is the asynchronous phase. -/
theorem asyncDelivery : Obligations.AsyncDelivery := by
  intro s f l k rest h hd hl hs W
  rw [step_of_dispatch h, dispatchStep_of_no_sync (s := { s with agenda := rest }) hd (nextSync_eq_none_iff.mpr hl) hs]
  rfl

/-! ### A listener's completion (R313, R315, R408) -/

theorem step_of_listenerDone {s : State} {lid : Half} {n : Nat} {rest : List Move} (h : s.agenda = .listenerDone lid n :: rest) :
    step s =
      ofLatest n (deliveriesTo lid s.out) (fun s => .next (takeListenerDone lid s)) { s with agenda := rest } := step_of_agenda h

theorem takeListenerDone_of_sync {s : State} {f : DecodedFrame} {l : List Entry} {k j : Nat} {e : Entry}
    (hd : s.dispState = .sync f l k true) (hj : nextSync l k = some (j, e)) (lid : Half) :
    takeListenerDone lid s = if e.lid = .ext lid then { s with dispState := .sync f l (j + 1) false } else s := by
  rw [takeListenerDone, hd]
  dsimp only
  rw [hj]

theorem takeListenerDone_of_async {s : State} {f : DecodedFrame} {w : List Handle} (hd : s.dispState = .async f w) (lid : Half) :
    takeListenerDone lid s =
      if Handle.ext lid ∈ w then awaitAll f (w.filter fun h => decide (h ≠ .ext lid)) s else s := by
  rw [takeListenerDone, hd]

/-- The asynchronous wait is over exactly if nothing is waited for (R314, R315). -/
theorem awaitAll_dispState_eq_idle_iff {f : DecodedFrame} {w : List Handle} {s : State} :
    (awaitAll f w s).dispState = .idle ↔ w = [] := by
  rw [awaitAll_dispState]
  split
  · exact iff_of_true rfl ‹_›
  · exact iff_of_false nofun ‹_›

/-- Settles O38: the entry at `j` is the one the engine finds from `k` on; a completion must be of the latest delivery and of that
entry's listener. -/
theorem syncDelivery : Obligations.SyncDelivery := by
  intro s f l k j lid rest hk hj hbefore
  have hnext : nextSync l k = some (j, { lid := .ext lid, mode := .sync }) := nextSync_eq hk hj rfl hbefore
  refine ⟨fun h hd => ?_, fun h hd => ?_, fun lid' n hne h hd => ?_⟩
  · rw [step_of_dispatch h, dispatchStep_of_nextSync (s := { s with agenda := rest }) hd hnext]
    rfl
  · rw [step_of_listenerDone h, ofLatest_of_eq, takeListenerDone_of_sync (s := { s with agenda := rest }) hd hnext, if_pos rfl]
  · rw [step_of_listenerDone h]
    refine ofLatest_ignored fun hn => congrArg _ ?_
    rw [takeListenerDone_of_sync (s := { s with agenda := rest }) hd hnext]
    refine if_neg fun he => ?_
    obtain rfl := Handle.ext.inj he
    exact hne.elim (· rfl) (· hn)

/-- Settles O40: an awaited handle is filtered out of W, and the dispatch ends when nothing else was in it. -/
theorem asyncCompletion : Obligations.AsyncCompletion := by
  intro s f w lid n rest h hd
  have hdone := takeListenerDone_of_async (s := { s with agenda := rest }) hd lid
  rw [step_of_listenerDone h]
  constructor
  · intro hne
    refine ofLatest_ignored fun hn => ?_
    rw [hdone, if_neg (hne.resolve_right (not_not_intro hn))]
  · rintro hw rfl
    rw [ofLatest_of_eq, hdone, if_pos hw]
    refine ⟨_, rfl, ?_, ?_, rfl⟩
    · rw [awaitAll_dispState]
      split
      · exact .inl rfl
      · exact .inr ⟨_, rfl, ‹_›, fun h => by rw [List.mem_filter, decide_eq_true_iff]⟩
    · rw [awaitAll_dispState_eq_idle_iff, List.filter_eq_nil_iff]
      simp only [decide_eq_true_iff, not_not]

/-! ### The synchronous wait (R313, R320) -/

/-- While a synchronous listener is awaited, only a reset and that listener's completion write the dispatch. -/
theorem MoveShape.sync_wait_cases {s t : State} {m : Move} (h : MoveShape s m t) {f : DecodedFrame} {l : List Entry} {k : Nat}
    (hw : s.dispState = .sync f l k true) :
    t.dispState = s.dispState ∨ m = .assertReset ∨
    ∃ j lid, nextSync l k = some (j, { lid := .ext lid, mode := .sync }) ∧ m = .listenerDone lid (deliveriesTo lid s.out) ∧
      t.dispState = .sync f l (j + 1) false := by
  cases h with
  | executes _ _ _ _ _ hx => exact .inl hx.dispState_eq
  | connected => exact .inl (finishConnect_dispState ..)
  | resets => exact .inr (.inl rfl)
  | syncDone lid _ _ _ j hd hj =>
    obtain ⟨rfl, rfl, rfl, -⟩ := DispState.sync.inj (hd.symm.trans hw)
    exact .inr (.inr ⟨j, lid, hj, rfl, rfl⟩)
  | discards _ _ hd =>
    rw [hw] at hd
    obtain hd | ⟨_, _, hd⟩ | ⟨_, _, _, hd, -⟩ := hd <;> cases hd
  | asyncDone _ _ _ hd | starts _ _ _ _ hd | delivers _ _ _ _ _ hd | captures _ _ _ _ _ hd | deliversAll _ _ _ hd =>
    cases hd.symm.trans hw
  | _ => exact .inl rfl

/-- Settles O43: of the moves that leave a synchronous wait, one is the reset and the other the awaited completion. -/
theorem syncWaitEndsOnlyByCompletion : Obligations.SyncWaitEndsOnlyByCompletion := by
  intro s t f l k hw h hne
  obtain ⟨m, a, c, rfl, hm⟩ := step_shape h
  obtain heq | hreset | ⟨j, lid, hj, hmove, ht⟩ := hm.sync_wait_cases hw
  · exact absurd heq hne
  · exact .inl hreset
  · obtain ⟨hk, hentry, -⟩ := nextSync_some hj
    exact .inr ⟨j, lid, hk, hentry, nextSync_first hj, hmove, ht⟩

end Sys2Proof.Machine
end

section
/-!
The ACK correlator (43_correlator.md). SEND_ACKED and its arming are told by their checks in order, as SEND is; the capture and the poll
by one equation per outcome. A table in canonical order is determined by its lookups, so that an arming and its resolution, which filters
the new entry out again, give back the table itself.
-/

namespace Sys2Proof.Machine

open Sys2Proof.Safety Sys2Proof.Claims

/-! ### SEND_ACKED (R340, R341, R343, R349) -/

theorem corrBusy_iff {s : State} : corrBusy s = true ↔ s.corr ≠ .idle := decide_eq_true_iff

/-- Where the arguments pass, the model's frame is the one written out from R210. -/
theorem encodeFrame_of_argumentsOk (c : Config) (node kind : Byte) (ident : Word) {len pcount : Byte} {payload : List Byte}
    (h : payload.length = 8) (ha : argumentsOk len pcount) :
    encodeFrame c node kind ident len pcount payload = some (encodedFrame c node kind ident len pcount payload) := by
  rw [encodeFrame, if_pos (frameArgsOk_iff.mpr ha), outboundFrame_eq_encodedFrame _ _ _ _ _ h ha.2.1]

/-- Settles O44: the checks are R341's in order, and the OUT write carries the frame just stored. -/
theorem sendAckedChecks : Obligations.SendAckedChecks := by
  intro s tag node kind ident len pcount payload h F i
  have hF : argumentsOk len pcount → encodeFrame s.cfg node kind ident len pcount payload = some F :=
    encodeFrame_of_argumentsOk s.cfg node kind ident h
  have hidle : s.corr = .idle → ¬ corrBusy s = true := fun hc => corrBusy_iff.not.mpr (not_not_intro hc)
  clear_value F
  refine ⟨fun hc => ?_, fun hc ha => ?_, fun hc ha hl => ?_, fun hc ha hl => ?_⟩
  · exact if_pos (corrBusy_iff.mpr hc)
  · rw [exec, execSendAcked, if_neg (hidle hc), encodeFrame, if_neg (frameArgsOk_iff.not.mpr ha)]
    rfl
  · rw [exec, execSendAcked, if_neg (hidle hc), hF ha]
    exact if_neg (linkUp_iff.not.mpr hl)
  · rw [exec, execSendAcked, if_neg (hidle hc), hF ha]
    dsimp only
    rw [if_pos (linkUp_iff.mpr hl), issueWrite_stored (m := s.txBuf) (encodeFrame_some_length (hF ha)) rfl]
    rfl

/-- The command goes on after its write: arming, or WRITE_FAILED (R340, R349). -/
theorem finishSendAcked_of_writing {s : State} {c : Correlation} (hc : s.corr = .writing c) (tag : Byte) (w : Fin 26) :
    finishSendAcked tag w s =
      if w.val = 25 then arm c { s with outPort := .idle }
      else responded { s with outPort := .idle, corr := .idle } [0x21, tag, 0x03] := by
  rw [finishSendAcked, hc]
  rfl

/-- Settles O45: the write has completed, so the command's next step looks at its count; the arming registers the entry. -/
theorem armingStep : Obligations.ArmingStep := by
  intro s tag node kind ident len pcount payload d w c rest hcmd hd hw hc h
  have hstep : step s = .next (finishSendAcked tag w { s with agenda := rest }) := by
    rw [step_of_resume hcmd hd h, resumeInstr, afterWrite, hw]
  rw [hstep, finishSendAcked_of_writing (s := { s with agenda := rest }) hc]
  refine ⟨fun hne => congrArg _ (if_neg hne), fun heq => ⟨_, congrArg _ (if_pos heq), ?_, fun k' hk' => ?_⟩⟩
  · exact (SubTable.find_register ..).trans (if_pos rfl)
  · exact (SubTable.find_register ..).trans (if_neg hk')

/-! ### The capture (R344) -/

theorem capture_of_match {s : State} {c : Correlation} {g : Word} {f : DecodedFrame} (hc : s.corr = .armed c)
    (h : c.gen = g ∧ c.captured = none ∧ f.marker = markerAck ∧ f.identifier = c.identifier) :
    capture g f s = { s with corr := .armed { c with captured := some f.tick } } := by
  rw [capture, hc]
  exact if_pos h

theorem capture_of_no_match {s : State} {g : Word} {f : DecodedFrame}
    (h : ∀ c, s.corr = .armed c → ¬ (c.gen = g ∧ c.captured = none ∧ f.marker = markerAck ∧ f.identifier = c.identifier)) :
    capture g f s = s := by
  unfold capture
  split
  · exact if_neg (h _ ‹_›)
  · rfl
  · rfl

/-- Settles O46: the entry at `j` is the one the engine finds from `k` on, and its delivery is the capture. -/
theorem captureRule : Obligations.CaptureRule := by
  intro s f l k j g rest h hd hk hj hbefore
  have hstep : step s = .next (capture g f { s with agenda := rest, dispState := .sync f l (j + 1) false }) := by
    rw [step_of_dispatch h, dispatchStep_of_nextSync (s := { s with agenda := rest }) hd (nextSync_eq hk hj rfl hbefore),
      deliverSync]
  rw [hstep]
  refine ⟨fun c hc hg hcap hm hid => congrArg _ ?_, fun hno => congrArg _ (capture_of_no_match fun c hc => ?_)⟩
  · exact capture_of_match (s := { s with agenda := rest, dispState := .sync f l (j + 1) false }) hc ⟨hg, hcap, hm, hid⟩
  · rintro ⟨hg, hcap, hm, hid⟩
    obtain h | h | h | h := hno c hc
    exacts [h hg, h hcap, h hm, h hid]

/-! ### The poll (R345, R346, R347) -/

theorem poll_of_not_armed {s : State} (h : ∀ c, s.corr ≠ .armed c) : poll s = s := by
  unfold poll
  split
  · exact absurd ‹_› (h _)
  · rfl
  · rfl

theorem poll_of_captured {s : State} {c : Correlation} {t : Word} (hc : s.corr = .armed c) (ht : c.captured = some t) :
    poll s = resolve c .ok (bytesLe32 t) s := by
  rw [poll, hc]
  dsimp only
  rw [ht]

/-- Without a capture the poll counts down to the deadline. -/
theorem poll_of_not_captured {s : State} {c : Correlation} (hc : s.corr = .armed c) (ht : c.captured = none) :
    poll s =
      if c.pollsLeft - 1 = 0 then resolve c .noAck [] s
      else { s with corr := .armed { c with pollsLeft := c.pollsLeft - 1 } } := by
  rw [poll, hc]
  dsimp only
  rw [ht]

theorem step_of_strobe {s : State} {rest : List Move} (h : s.agenda = .strobe :: rest) :
    step s = .next (poll { s with agenda := rest }) := step_of_agenda h

theorem step_of_counted_strobe {s : State} {c : Correlation} {rest : List Move} (h : s.agenda = .strobe :: rest)
    (hc : s.corr = .armed c) (ht : c.captured = none) (hl : 1 < c.pollsLeft) :
    step s = .next { s with agenda := rest, corr := .armed { c with pollsLeft := c.pollsLeft - 1 } } := by
  rw [step_of_strobe h, poll_of_not_captured (s := { s with agenda := rest }) hc ht, if_neg (by omega)]

theorem step_of_last_strobe {s : State} {c : Correlation} {rest : List Move} (h : s.agenda = .strobe :: rest)
    (hc : s.corr = .armed c) (ht : c.captured = none) (hl : c.pollsLeft = 1) :
    step s = .next (resolve c .noAck [] { s with agenda := rest }) := by
  rw [step_of_strobe h, poll_of_not_captured (s := { s with agenda := rest }) hc ht, hl]
  rfl

/-- Settles O47: each clause is an outcome of the poll; both resolutions filter the internal entry out of its key's list alone. -/
theorem pollRule : Obligations.PollRule := by
  intro s c rest h htable k left ended removed
  have hremoved : removed (SubTable.unregister s.subs k (.int c.gen)) := by
    refine ⟨SubTable.find_unregister_same htable.1 k _, fun k' hk' => ?_⟩
    rw [SubTable.find_unregister htable.1, if_neg hk']
  refine ⟨fun hno => ?_, fun t hc ht => ⟨_, ?_, hremoved⟩, fun hc ht hl => ⟨_, ?_, hremoved⟩, step_of_counted_strobe h⟩
  · rw [step_of_strobe h, poll_of_not_armed (s := { s with agenda := rest }) hno]
  · rw [step_of_strobe h, poll_of_captured (s := { s with agenda := rest }) hc ht]
    rfl
  · exact step_of_last_strobe h hc ht hl

/-! ### The deadline (R345, R410) -/

theorem run_succ_of_step {M : Host.Core} {s t : M.State} (h : M.step s = .next t) (n : Nat) : M.run (n + 1) s = M.run n t := by
  rw [Host.Core.run, h]

/-- Settles O48, by induction on the strobes: each but the last takes one from the count that is left. -/
theorem deadlineCountsStrobes : Obligations.DeadlineCountsStrobes := by
  intro s c rest n hc ht h
  induction n generalizing s c with
  | zero =>
    have hagenda : s.agenda = rest := h
    refine ⟨fun _ => congrArg Host.Outcome.next ?_, nofun⟩
    rw [Nat.sub_zero, ← hagenda, ← hc]
  | succ n ih =>
    by_cases hl : 1 < c.pollsLeft
    · obtain ⟨hfew, hall⟩ := ih (s := { s with
        agenda := List.replicate n .strobe ++ rest
        corr := .armed { c with pollsLeft := c.pollsLeft - 1 } }) _ rfl ht rfl
      have hrun := run_succ_of_step (M := core) (step_of_counted_strobe h hc ht hl) n
      have hcount : c.pollsLeft - (n + 1) = c.pollsLeft - 1 - n := by omega
      rw [hcount]
      refine ⟨fun hn => hrun.trans (hfew (Nat.lt_sub_of_add_lt hn)), fun _ hn => ?_⟩
      obtain ⟨t, hlast, hend⟩ := hall (by omega) (Nat.eq_sub_of_add_eq hn)
      exact ⟨t, hrun.trans hlast, hend⟩
    · refine ⟨fun hn => by omega, fun _ hn => ?_⟩
      obtain rfl : n = 0 := by omega
      exact ⟨_, run_succ_of_step (M := core) (step_of_last_strobe h hc ht hn.symm) 0, rfl, rfl, rfl⟩

/-! ### Arming and resolution (R348, R353) -/

theorem tableOrdered_pairwise {κ ν : Type} {code : κ → Nat} {m : List (κ × ν)} (h : tableOrdered code m = true) :
    m.Pairwise fun p q => code p.1 < code q.1 := by
  induction m with
  | nil => exact .nil
  | cons p m ih =>
    obtain ⟨hlt, hm⟩ := (tableOrdered_cons code).mp h
    exact .cons hlt (ih hm)

/-- Two tables in canonical order with the same lookups are equal (R52). -/
theorem SubTable.eq_of_find {t t' : SubTable} (ht : tableOrdered Key.code t = true) (ht' : tableOrdered Key.code t' = true)
    (h : ∀ k, SubTable.find t k = SubTable.find t' k) : t = t' := by
  have hmem : ∀ p, p ∈ t ↔ p ∈ t' := fun p => by rw [SubTable.mem_iff_find ht, SubTable.mem_iff_find ht', h]
  have hnodup : ∀ {m : SubTable}, tableOrdered Key.code m = true → m.Nodup := fun hm =>
    (tableOrdered_pairwise hm).imp (by rintro p _ hlt rfl; exact hlt.false)
  exact ((List.perm_ext_iff_of_nodup (hnodup ht) (hnodup ht')).mpr hmem).eq_of_pairwise
    (fun _ _ _ _ hlt hgt => absurd hlt hgt.asymm) (tableOrdered_pairwise ht) (tableOrdered_pairwise ht')

/-- A well-formed table has a key exactly if there is an entry under it (R52 I1). -/
theorem TableWf.find_eq {P : Key → Entry → Prop} {t : SubTable} (ht : TableWf P t) (k : Key) :
    SubTable.find t k = if SubTable.listeners t k = [] then none else some (SubTable.listeners t k) := by
  unfold SubTable.listeners
  cases hf : SubTable.find t k with
  | none => rfl
  | some l => exact (if_neg (ht.2 k l hf).1).symm

/-- Removing the handle just registered gives back the table (R348). -/
theorem SubTable.unregister_register {P : Key → Entry → Prop} {t : SubTable} (ht : TableWf P t) {k : Key} {e : Entry}
    (hnew : ∀ x ∈ SubTable.listeners t k, x.lid ≠ e.lid) : SubTable.unregister (SubTable.register t k e) k e.lid = t := by
  have hord := SubTable.ordered_register ht.1 k e
  have hleft : (SubTable.listeners (SubTable.register t k e) k).filter (fun x => decide (x.lid ≠ e.lid)) =
      SubTable.listeners t k := by
    rw [SubTable.listeners_register, if_pos rfl, List.filter_append,
      List.filter_eq_self.mpr fun x hx => decide_eq_true (hnew x hx)]
    simp
  refine SubTable.eq_of_find (SubTable.ordered_unregister hord k e.lid) ht.1 fun k' => ?_
  by_cases hk : k' = k
  · rw [hk, SubTable.find_unregister_same hord, hleft, ht.find_eq]
  · rw [SubTable.find_unregister hord, if_neg hk, SubTable.find_register, if_neg hk]

/-- Settles O49: with nothing armed no entry is internal, so the arming's entry is the one the resolution removes. -/
theorem armThenResolveRestoresTable : Obligations.ArmThenResolveRestoresTable := by
  intro s c c' st data htable hno hgen hid
  have hwf := (tableInv_iff s).mp htable
  rw [resolve_subs, arm_subs, hgen, hid]
  exact SubTable.unregister_register hwf fun x hx => internalEntryOk_not_int hno ((hwf.listeners _).2 x hx) _

end Sys2Proof.Machine
end

section
/-!
Reset (70_reset_and_hazards.md R450, R451): the values it gives, the invariants they meet, and the completions of the transactions it
abandons. For each kind of transaction the one question is how it can come to be outstanding: it was so before, or the move has just
issued it, which raises the number of the latest.
-/

namespace Sys2Proof.Machine

open Sys2Proof.Safety

/-! ### The reset state (R450) -/

/-- No link, no loop, no correlation and no dispatch: every bit of STATUS is zero (R58). -/
theorem statusView_resetElements (s : State) : statusView (resetElements s) = 0x00 := by
  show flagBit false 0 ||| flagBit false 1 ||| flagBit false 2 ||| flagBit false 3 = 0x00
  decide

/-- Settles O50: the elements are written out in `State.reset`, and every flag of STATUS is clear there. -/
theorem resetValues : Obligations.ResetValues :=
  ⟨rfl, rfl, rfl, rfl, rfl, rfl, rfl, rfl, rfl, rfl, rfl, statusView_resetElements .reset⟩

/-- A reset meets every invariant: no entry, no byte and no frame is there, and nothing waits. -/
theorem inv_resetElements (s : State) : Inv (resetElements s) := by
  have htable : TableInv (resetElements s) := ⟨rfl, nofun⟩
  have hbuffers : BufferInv (resetElements s) :=
    ⟨rfl, rfl, fun _ _ => rfl, fun _ _ => rfl, nofun, Nat.zero_le _, Nat.zero_le _⟩
  have hcommand : CommandInv (resetElements s) := commandInv_of_idle rfl rfl rfl nofun
  have hloop : LoopInv (resetElements s) := ⟨fun _ => ⟨rfl, rfl⟩, fun _ => ⟨rfl, rfl⟩⟩
  exact ⟨htable, hbuffers, ⟨nofun, nofun⟩, hcommand, hloop, trivial, correlationInv_of_not_armed nofun⟩

/-- Settles O52: the reset state is what a reset makes of it. -/
theorem resetMeetsInvariants : Obligations.ResetMeetsInvariants := inv_resetElements .reset

/-! ### How a transaction comes to be outstanding (R408) -/

/-- START puts the read engine in IDLE; no other instruction writes it (R262). -/
theorem ExecShape.rdState_cases {s t : State} {i : Instr} (h : ExecShape s i t) : t.rdState = s.rdState ∨ t.rdState = .idle := by
  cases h with
  | starts => exact .inr rfl
  | receives =>
    rw [receiveChunk_eq]
    exact .inl rfl
  | _ => exact .inl rfl

/-- A read is outstanding because it was, or because the move is the issue step (R265). -/
theorem MoveShape.readPending_cases {s t : State} {m : Move} (h : MoveShape s m t) (ht : t.rdState = .readPending) :
    s.rdState = .readPending ∨ readsIssued s.out < readsIssued t.out := by
  cases h with
  | executes _ _ _ _ _ hx =>
    obtain heq | hidle := hx.rdState_cases
    · exact .inl (heq.symm.trans ht)
    · cases hidle.symm.trans ht
  | connected ok => cases ok <;> exact .inl ht
  | deframes =>
    rw [endDeframe_rdState] at ht
    split at ht <;> cases ht
  | issues => exact .inr (by simp)
  | captures =>
    rw [capture_eq] at ht
    exact .inl ht
  | endsRead | resets | stops | cancels | discards | endsBatch => cases ht
  | _ => exact .inl ht

/-- The OUT write that an instruction leaves busy is its own, unless one was busy before (R274). -/
theorem ExecShape.outPort_cases {s t : State} {i : Instr} (h : ExecShape s i t) :
    t.outPort = s.outPort ∨ writesIssued s.out < writesIssued t.out := by
  cases h with
  | sends | sendsAcked => exact .inr (by simp)
  | receives =>
    rw [receiveChunk_eq]
    exact .inl rfl
  | _ => exact .inl rfl

/-- An OUT write is outstanding because it was, or because the move has executed SEND or SEND_ACKED (R274, R340). -/
theorem MoveShape.busy_cases {s t : State} {m : Move} (h : MoveShape s m t) (ht : t.outPort = .busy) :
    s.outPort = .busy ∨ writesIssued s.out < writesIssued t.out := by
  cases h with
  | executes _ _ _ _ _ hx =>
    obtain heq | hlt := hx.outPort_cases
    · exact .inl (heq.symm.trans ht)
    · exact .inr hlt
  | connected ok => cases ok <;> exact .inl ht
  | captures =>
    rw [capture_eq] at ht
    exact .inl ht
  | written | resets | answers | arms => cases ht
  | _ => exact .inl ht

/-- An instruction ends its command or leaves it in progress. -/
theorem ExecShape.cmdState_cases {s t : State} {i : Instr} (h : ExecShape s i t) :
    t.cmdState = .idle ∨ t.cmdState = s.cmdState := by
  cases h with
  | sends | sendsAcked | connects | asksStop => exact .inr rfl
  | receives =>
    rw [receiveChunk_eq]
    exact .inr rfl
  | _ => exact .inl rfl

/-- CONNECT asks `usb_open` of the USB layer (R260). -/
theorem ExecShape.opensIssued_lt {s t : State} {tag : Byte} (h : ExecShape s (.connect tag) t) :
    opensIssued s.out < opensIssued t.out := by
  cases h with
  | connects => simp
  | responds _ _ _ _ _ _ hi => exact absurd rfl (hi tag).1
  | stores _ _ _ _ _ _ _ hi | asksStop _ _ hi | disconnects _ _ _ _ hi => simp at hi
  | receives _ hw => cases hw

/-- An answer of `usb_open` is awaited because it was, or because the move has executed the CONNECT (R260). -/
theorem MoveShape.awaitingOpen_cases {s t : State} {m : Move} (h : MoveShape s m t) {tag : Byte}
    (ht : awaitingOpen t.cmdState = some tag) :
    awaitingOpen s.cmdState = some tag ∨ opensIssued s.out < opensIssued t.out := by
  cases h with
  | executes d i _ _ hd hx =>
    obtain ⟨d', hc', hd'⟩ := awaitingOpen_some.mp ht
    obtain hidle | heq := hx.cmdState_cases
    · cases hidle.symm.trans hc'
    · obtain rfl : d = d' := CmdState.exec.inj (heq.symm.trans hc')
      obtain rfl : i = .connect tag := Except.ok.inj (hd.symm.trans hd')
      exact .inr hx.opensIssued_lt
  | connected ok => cases ok <;> cases ht
  | captures =>
    rw [capture_eq] at ht
    exact .inl ht
  | rejects | resets | disconnects | answers | arms => cases ht
  | _ => exact .inl ht

/-- The asynchronous wait is for its handles (R315). -/
theorem awaitsListener_awaitAll {f : DecodedFrame} {w : List Handle} {s : State} {lid : Half}
    (h : AwaitsListener (awaitAll f w s).dispState lid) : .ext lid ∈ w := by
  rw [awaitAll_dispState] at h
  split at h
  · exact h.elim
  · exact h

/-- A listener is awaited because it was, or because the move has made a delivery to it (R313, R314). -/
theorem MoveShape.awaitsListener_cases {s t : State} {m : Move} (h : MoveShape s m t) {lid : Half}
    (ht : AwaitsListener t.dispState lid) :
    AwaitsListener s.dispState lid ∨ deliveriesTo lid s.out < deliveriesTo lid t.out := by
  cases h with
  | executes _ _ _ _ _ hx => exact .inl (hx.dispState_eq ▸ ht)
  | connected => exact .inl (finishConnect_dispState .. ▸ ht)
  | captures =>
    rw [capture_dispState] at ht
    exact ht.elim
  | syncDone | resets | discards | starts => exact ht.elim
  | asyncDone _ f w hd =>
    rw [hd]
    exact .inl (List.mem_of_mem_filter (awaitsListener_awaitAll (s := s) ht))
  | delivers f l k j lid' _ hj =>
    obtain ⟨j', e, hj', he⟩ := ht
    obtain ⟨-, rfl⟩ := Prod.mk.inj (Option.some.inj (hj.symm.trans hj'))
    obtain rfl := Handle.ext.inj he
    rw [emit_out, deliveriesTo_append]
    exact .inr (Nat.lt_add_of_pos_right (deliveriesTo_pos (f := f) List.mem_cons_self))
  | deliversAll f l =>
    have hmem : .ext lid ∈ asyncHandles l := awaitsListener_awaitAll (s := s) ht
    rw [deliverAsync, emitAll_out, deliveriesTo_append]
    exact .inr (Nat.lt_add_of_pos_right (deliveriesTo_pos (f := f) (List.mem_map_of_mem hmem)))
  | _ => exact .inl ht

/-! ### Only later transactions are outstanding (R451) -/

/-- What is outstanding has a later number than `past` if it had before or has just been issued; `count` gives the number of the
latest. -/
theorem issued_since {count : List OutEvent → Nat} (hmono : ∀ {a b}, a <+: b → count a ≤ count b) {past out out' : List OutEvent}
    (hpast : past <+: out) (hgrows : out <+: out') {P : Prop} (hs : P → count past < count out)
    (h : P ∨ count out < count out') : count past < count out' := by
  obtain hp | hlt := h
  · exact (hs hp).trans_le (hmono hgrows)
  · exact (hmono hpast).trans_lt hlt

theorem MoveShape.keeps_outstandingSince {s t : State} {m : Move} (h : MoveShape s m t) {past : List OutEvent}
    (hi : OutstandingSince past s) : OutstandingSince past t := by
  obtain ⟨hpast, hread, hwrite, hopen, hdeliver⟩ := hi
  have hgrows := h.out_grows
  exact ⟨hpast.trans hgrows,
    fun ht => issued_since readsIssued_mono hpast hgrows hread (h.readPending_cases ht),
    fun ht => issued_since writesIssued_mono hpast hgrows hwrite (h.busy_cases ht),
    fun tag ht => issued_since opensIssued_mono hpast hgrows (hopen tag) (h.awaitingOpen_cases ht),
    fun lid ht => issued_since deliveriesTo_mono hpast hgrows (hdeliver lid) (h.awaitsListener_cases ht)⟩

/-- After a reset nothing is outstanding. -/
theorem outstandingSince_resetElements (s : State) : OutstandingSince s.out (resetElements s) :=
  ⟨List.prefix_rfl, nofun, nofun, nofun, fun _ h => h.elim⟩

/-! ### Completions that nothing waits for (R408) -/

theorem takeOpenAnswer_of_not_awaiting {s : State} (h : ∀ tag, awaitingOpen s.cmdState ≠ some tag) (ok : Bool) :
    takeOpenAnswer ok s = s := by
  rw [takeOpenAnswer, Option.eq_none_iff_forall_ne_some.mpr h]

theorem takeTransfer_of_ne_readPending {s : State} (h : s.rdState ≠ .readPending) (T : List Byte) : takeTransfer T s = .next s := by
  by_cases hT : T = []
  · rw [hT, takeTransfer_nil]
    exact congrArg _ (if_neg h)
  · rw [takeTransfer_of_ne_nil hT]
    exact if_neg fun hr => h hr.1

theorem takeListenerDone_of_not_awaits {s : State} {lid : Half} (h : ¬ AwaitsListener s.dispState lid) :
    takeListenerDone lid s = s := by
  cases hd : s.dispState with
  | idle => rw [takeListenerDone, hd]
  | async f w =>
    rw [takeListenerDone_of_async hd]
    exact if_neg fun hw => h (hd ▸ hw)
  | sync f l k waiting =>
    cases waiting with
    | false => rw [takeListenerDone, hd]
    | true =>
      cases hj : nextSync l k with
      | none =>
        rw [takeListenerDone, hd]
        dsimp only
        rw [hj]
      | some p =>
        rw [takeListenerDone_of_sync hd hj]
        exact if_neg fun he => h (hd ▸ ⟨p.1, p.2, hj, he⟩)

/-! ### Late completions (R451) -/

/-- A late completion changes nothing: if its transaction's kind is awaited (`P`), the awaited one has a later number. -/
theorem ofLatest_late {n since latest : Nat} {f : State → Result} {s : State} (hn : n ≤ since) {P : Prop}
    (hs : P → since < latest) (hf : ¬ P → f s = .next s) : ofLatest n latest f s = .next s :=
  ofLatest_ignored fun heq => hf fun hp => Nat.not_lt.mpr (heq ▸ hn) (hs hp)

/-- A completion of any kind, of a transaction issued when the log was `past`, changes nothing. -/
theorem perform_late {past : List OutEvent} {s : State} (hi : OutstandingSince past s) {m : Move} {n : Nat}
    (hm : (n ≤ opensIssued past ∧ ∃ ok, m = .usbOpened n ok) ∨
      (n ≤ readsIssued past ∧ ((∃ T, m = .transfer n T) ∨ m = .readTimeout n ∨ m = .readError n)) ∨
      (n ≤ writesIssued past ∧ ∃ w, m = .writeDone n w) ∨
      (∃ lid, n ≤ deliveriesTo lid past ∧ m = .listenerDone lid n)) : perform m s = .next s := by
  obtain ⟨-, hread, hwrite, hopen, hdeliver⟩ := hi
  obtain ⟨hn, ok, rfl⟩ | ⟨hn, hm⟩ | ⟨hn, w, rfl⟩ | ⟨lid, hn, rfl⟩ := hm
  · rw [perform]
    have hs : (∃ tag, awaitingOpen s.cmdState = some tag) → opensIssued past < opensIssued s.out := fun ⟨tag, h⟩ => hopen tag h
    exact ofLatest_late hn hs fun h => congrArg _ (takeOpenAnswer_of_not_awaiting (not_exists.mp h) ok)
  · obtain ⟨T, rfl⟩ | hm := hm
    · exact ofLatest_late hn hread fun h => takeTransfer_of_ne_readPending h T
    · rw [perform_empty_read (hm.imp_right .inl)]
      exact ofLatest_late hn hread fun h => congrArg _ (if_neg h)
  · rw [perform]
    exact ofLatest_late hn hwrite fun h => congrArg _ (takeWriteDone_of_ne_busy h w)
  · rw [perform]
    exact ofLatest_late hn (hdeliver lid) fun h => congrArg _ (takeListenerDone_of_not_awaits h)

/-- Settles O51: a reset leaves nothing outstanding, a move makes outstanding only what it issues, and a completion is taken only if it
bears the number of what is outstanding. -/
theorem resetFromAnyState : Obligations.ResetFromAnyState := by
  refine ⟨fun s rest h => ?_, fun past s t hi h => ?_, fun past s m n rest hi h hm => ?_⟩
  · exact ⟨_, step_of_agenda h, rfl, rfl, rfl, rfl, rfl, rfl, rfl, rfl, rfl, rfl, rfl, rfl, rfl, rfl, rfl,
      statusView_resetElements _, outstandingSince_resetElements { s with agenda := rest }⟩
  · obtain ⟨_, _, _, -, hshape⟩ := step_shape h
    exact hshape.keeps_outstandingSince hi
  · rw [step_of_agenda h]
    exact perform_late (s := { s with agenda := rest }) hi hm

end Sys2Proof.Machine
end
